-- ==== Sys2Proof/Word.lean ====
section
/-! DEFINITION. The byte and byte-sequence types of the block (00_scope R10, R11) and the topic tag (30_encoding R79). -/

namespace Sys2Proof

/-- One byte of the wire. -/
abbrev Byte := BitVec 8

/-- A byte sequence, first byte on the wire first (00_scope R11). -/
abbrev Bytes := List Byte

/-- A 4-byte topic tag: four bytes in reading order, never an integer (20_memory R47, 30_encoding R79). -/
structure Topic where
  b0 : Byte
  b1 : Byte
  b2 : Byte
  b3 : Byte
deriving DecidableEq, Repr

end Sys2Proof
end

