-- ==== Sys2Proof/Syntax.lean ====
section
/-! DEFINITION. The instructions of the block: one constructor of `Instr` for each row of spec/opcode_table.json,
with the operands of 30_encoding R80 and R81, and the types of those operands. -/

namespace Sys2Proof

/-- The 14 rejection codes of the NACK catalogue (30_encoding R76): "a closed enumeration" (60_exceptions R238). -/
inductive NackCode where
  | general | crcError | payloadTooSmall | requestTooLarge | programCrcError | programFileError
  | uninitializedTransfer | invalidInitForFunction | dataNotMultipleOf4 | addressMismatch | lengthMismatch
  | directoryEntryMissing | maxFilesReached | fileExists
deriving DecidableEq, Repr

/-- The reason a `TransportError` carries (60_exceptions R210, R211). -/
inductive TransportReason where
  | shortRead | channelFailure
deriving DecidableEq, Repr

/-- The thirteen errors of 60_exceptions R210, in its order, each with what it carries. -/
inductive Err where
  | transport (reason : TransportReason)
  | frameSyncTimeout
  | checksumMismatch
  | deviceRejected (code : NackCode)
  | unexpectedAck (b : Option Byte)
  | unexpectedLength
  | unexpectedCommand (cmd : Byte)
  | unexpectedSubCommand (sub : Byte)
  | lengthOverflow (len : Nat)
  | invalidWidth (width : Nat)
  | invalidTopic (tag : Bytes)
  | cancelled
  | busy
deriving DecidableEq, Repr

/-- What `ChanRead()` can give a receiving operation (00_scope R8, R12). -/
inductive ChanEvent where
  | byte (b : Byte) | timeout | fail
deriving DecidableEq, Repr

/-- The packet record `{cmd, payload, raw, hlen}` that `SP.RX` returns (41_simple_packet R110). -/
structure Packet where
  cmd : Byte
  payload : Bytes
  raw : Bytes
  hlen : Nat
deriving DecidableEq, Repr

/-- A CRC table, named by the operands of the `CRC.BUILD` that produces it: a table is "a pure function of
(bit-width, polynomial)" (40_crc R86). DESIGN CHOICE, log 9. -/
structure TableRef where
  width : Nat
  poly : Nat
deriving DecidableEq, Repr

/-- The switches of the extended decoder: `check_ack`, `check_len`, `expected_len` (10_state R31). -/
structure Checks where
  ack : Bool
  len : Bool
  expectedLen : Nat
deriving DecidableEq, Repr

/-- The operand `function` of `FT.INIT` (44_host_protocols R188). -/
inductive TransferFunction where
  | upload | download
deriving DecidableEq, Repr

/-- The operand `target` of `FT.INIT` (44_host_protocols R188). -/
inductive TransferTarget where
  | flash | ram | screen
deriving DecidableEq, Repr

/-- The operand of `FT.COMPLETE` (44_host_protocols R191): "don't run", "run immediately", "run and show on screen". -/
inductive RunOption where
  | dontRun | runNow | runAndShow
deriving DecidableEq, Repr

/-- The operands of `FT.INIT` in the order of 44_host_protocols R188. -/
structure InitArgs where
  name : Bytes
  function : TransferFunction
  target : TransferTarget
  volume : Nat
  length : Nat
  address : Nat
  crc : BitVec 32
  overwrite : Bool
  typeTag : Bytes
  timestamp : Nat
  version : Nat
deriving DecidableEq, Repr

/-- The operands of `FT.UPLOAD` (44_host_protocols R204); `chunk` is the caller's chunk size `M` (R193). -/
structure UploadArgs where
  name : Bytes
  payload : Bytes
  target : TransferTarget
  volume : Nat
  address : Nat
  overwrite : Bool
  typeTag : Bytes
  timestamp : Nat
  version : Nat
  run : RunOption
  chunk : Nat
deriving DecidableEq, Repr

/-- The operands of `FT.DOWNLOAD` (44_host_protocols R204), with the reply switches of its `FT.READ`s, which the
caller supplies (10_state R31, 91 N13): one choice for all of them. DESIGN CHOICE, log 22. -/
structure DownloadArgs where
  name : Bytes
  length : Nat
  target : TransferTarget
  volume : Nat
  address : Nat
  overwrite : Bool
  typeTag : Bytes
  timestamp : Nat
  version : Nat
  checks : Checks
  chunk : Nat
deriving DecidableEq, Repr

/-- The two forms of the legacy device's erase: "erase all" or "erase specific page numbers" (44_host_protocols R200). -/
inductive EraseScope where
  | all
  | pages (numbers : List Nat)
deriving DecidableEq, Repr

/-- The operations of the legacy device's state machine (44_host_protocols R200, R201). -/
inductive BootOp where
  /-- the fixed initialization handshake -/
  | handshake
  | erase (scope : EraseScope)
  /-- one write of the programming loop -/
  | programWrite (address : Nat) (data : Bytes)
  | jump (address : Nat)
deriving DecidableEq, Repr

/-- The thirteen kinds of error of 60_exceptions R210, in its order. -/
inductive ErrKind where
  | transport | frameSyncTimeout | checksumMismatch | deviceRejected | unexpectedAck | unexpectedLength
  | unexpectedCommand | unexpectedSubCommand | lengthOverflow | invalidWidth | invalidTopic | cancelled | busy
deriving DecidableEq, Repr

/-- The operand `retryable` of `RETRY` (44_host_protocols R196): `CLASSIFY`, its default, or a choice of the caller's, named
by whole kinds of error and by single errors. DESIGN CHOICE, log 35. -/
inductive Retryable where
  | classify
  | these (kinds : List ErrKind) (errs : List Err)
deriving DecidableEq, Repr

/-- The "bounded-retry policy" of `RETRY`: its operands `max` and `retryable` (44_host_protocols R196). -/
structure RetryPolicy where
  max : Nat
  retryable : Retryable
deriving DecidableEq, Repr

/-- The operations that `RETRY` can wrap: "any exchange" (30_encoding R81) and "every operation in both state machines"
(44_host_protocols R196). -/
inductive HostOp where
  /-- the plain exchange `EXT.XCHG` -/
  | xchg (sub : Byte) (payload : Bytes) (checks : Checks)
  | init (args : InitArgs)
  | write (address : Nat) (data : Bytes)
  | read (address : Nat) (n : Nat) (checks : Checks)
  | complete (run : RunOption)
  | upload (args : UploadArgs)
  | download (args : DownloadArgs)
  /-- a command of the primary device, by its sub-command (42_extended_packet R130 to R144) -/
  | command (code : Byte) (payload : Bytes) (checks : Checks)
  /-- the status of the primary device, from the snapshot when it has been fetched (44_host_protocols R198) -/
  | status (payload : Bytes) (checks : Checks)
  /-- an operation of the legacy device (44_host_protocols R200, R201) -/
  | boot (op : BootOp)
deriving DecidableEq, Repr

/-- One constructor for each row of spec/opcode_table.json, in the table's order. -/
inductive Instr where
  -- 40_crc
  | crcBuild (width poly : Nat)
  | crcUpd (width : Nat) (table : TableRef) (acc : Nat) (b : Byte)
  | crcCompute (width : Nat) (table : TableRef) (bytes : Bytes) (initial : Nat)
  | crc16Compute (bytes : Bytes) (initial : BitVec 16)
  | crc32Compute (bytes : Bytes) (initial : BitVec 32)
  -- 41_simple_packet
  | spTx (cmd : Byte) (payload : Bytes)
  | spRx
  | spStep (e : ChanEvent)
  -- 42_extended_packet
  | extLenEnc (len : Nat)
  | extLenDec (bytes : Bytes)
  | extTx (sub : Byte) (payload : Bytes)
  | extDecode (p : Packet) (sub : Byte) (checks : Checks)
  | extRx (sub : Byte) (checks : Checks)
  | ackDecode (b : Byte)
  -- 43_mux_stream
  | cobsDecode (bytes : Bytes)
  | cobsEncode (bytes : Bytes)
  | muxSub (topic : Bytes)
  | muxUnsub (topic : Bytes)
  | muxPromisc (v : Bool)
  | muxRead
  | muxWrite (bytes : Bytes)
  | muxCancel
  -- pseudo-operations, 30_encoding R81
  | extXchg (sub : Byte) (payload : Bytes) (checks : Checks)
  | ftInit (args : InitArgs)
  | ftWrite (address : Nat) (data : Bytes)
  | ftRead (address : Nat) (n : Nat) (checks : Checks)
  | ftComplete (run : RunOption)
  | ftUpload (args : UploadArgs)
  | ftDownload (args : DownloadArgs)
  | retry (op : HostOp) (policy : RetryPolicy)
  | classify (e : Err)
  -- wire formats, 30_encoding R64 to R74
  | fSptxHeader (cmd : Byte) (payload : Bytes)
  | fSprxShort (cmd : Byte) (payload : Bytes)
  | fSprxLong (payload : Bytes)
  | fLenShort (len : BitVec 7)
  | fLenLong (len : BitVec 15)
  | fExtTx (sub : Byte) (payload : Bytes)
  | fExtRx (sub : Byte) (payload : Bytes)
  | fMuxDelim
  | fMuxFrame (topic : Topic) (payload : Bytes)
  | fCobsBlock (data : Bytes)
  | cmdExt
  -- the acknowledgment byte
  | ack
  -- sub-commands, 42_extended_packet R131 to R145
  | subFtInit (payload : Bytes) (checks : Checks)
  | subFtComplete (payload : Bytes) (checks : Checks)
  | subFtWrite (payload : Bytes) (checks : Checks)
  | subFtRead (payload : Bytes) (checks : Checks)
  | subFtSetLink (payload : Bytes) (checks : Checks)
  | subDirCount (payload : Bytes) (checks : Checks)
  | subDirEntry (payload : Bytes) (checks : Checks)
  | subExecFile (payload : Bytes) (checks : Checks)
  | subFileMetaGet (payload : Bytes) (checks : Checks)
  | subFileMetaSet (payload : Bytes) (checks : Checks)
  | subFileErase (payload : Bytes) (checks : Checks)
  | subSlotGet (payload : Bytes) (checks : Checks)
  | subSysStatus (payload : Bytes) (checks : Checks)
  | subScreenCapInit (payload : Bytes) (checks : Checks)
  | subOther (sub : Byte) (payload : Bytes) (checks : Checks)
  -- rejection codes, 60_exceptions R224 to R238
  | nackGeneral
  | nackCrcError
  | nackPayloadTooSmall
  | nackRequestTooLarge
  | nackProgramCrcError
  | nackProgramFileError
  | nackUninitializedTransfer
  | nackInvalidInitForFunction
  | nackDataNotMultipleOf4
  | nackAddressMismatch
  | nackLengthMismatch
  | nackDirectoryEntryMissing
  | nackMaxFilesReached
  | nackFileExists
  | nackOther (b : Byte)
deriving DecidableEq, Repr

end Sys2Proof
end

