-- ==== Sys2Proof/Config.lean ====
section
/-! DEFINITION. The fixed parameters of 00_scope R9, the parameters a model takes as an argument (`Params`), the
payload layouts that the spec leaves open, and the model's free values. -/

namespace Sys2Proof

namespace Config

/-- `CRC16_P` (00_scope R9). -/
def crc16Poly : Nat := 0x1021
/-- `CRC32_P` (00_scope R9). -/
def crc32Poly : Nat := 0x04C11DB7
/-- `CRC_W_MIN`, the smallest valid width (00_scope R9, 92 D3). -/
def crcWidthMin : Nat := 8
/-- `SP_TX_HDR` (00_scope R9). -/
def spTxHeader : Bytes := [0xC9, 0x36, 0xB8, 0x47]
/-- First byte of `SP_RX_SYNC` (00_scope R9). -/
def sync0 : Byte := 0xAA
/-- Second byte of `SP_RX_SYNC` (00_scope R9). -/
def sync1 : Byte := 0x55
/-- `EXT_CMD`, the reserved command value (00_scope R9, 92 D8). -/
def extCmd : Byte := 0x56
/-- `EXT_LEN_THRESHOLD` (00_scope R9, 92 D5). -/
def extLenThreshold : Nat := 0x80
/-- `EXT_LEN_MAX` (00_scope R9, 92 D6). -/
def extLenMax : Nat := 0x7FFF
/-- `TOPIC_LEN` (00_scope R9). -/
def topicLen : Nat := 4
/-- `MUX_DELIM` (00_scope R9). -/
def muxDelim : Byte := 0x00
/-- `RETRY_MAX`, the default of `RETRY`'s operand `max` (00_scope R9). -/
def retryMax : Nat := 3
/-- `FT_NAME_MAX` (00_scope R9). -/
def ftNameMax : Nat := 24
/-- `FT_ALIGN` (00_scope R9). -/
def ftAlign : Nat := 4
/-- `BOOT_WRITE_MAX` (00_scope R9). -/
def bootWriteMax : Nat := 256

/-- FREE VALUE (93 U1; log 9): the result of `CRC.UPD` or `CRC.COMPUTE` over `bytes` from `acc` at width `w`, with a
table that was built for another width. "The result is a W-bit value about which nothing is promised". -/
opaque mismatchedCrc : (w : Nat) → TableRef → (acc : Nat) → Bytes → BitVec w

/-- FREE VALUE (91 N23; log 36): how often the legacy device's handshake is tried again after its first failure. -/
opaque bootExtraTries : Nat

end Config

/-- What the host meets after one command to the legacy device (44_host_protocols R200, R201; log 36). -/
inductive BootAnswer where
  /-- the device did it and said so -/
  | done
  /-- no acknowledgment came, which is no error of the taxonomy by itself (90_conflicts C13) -/
  | silent
  /-- an error of the taxonomy (60_exceptions R210), a write failure among them -/
  | failed (e : Err)
deriving DecidableEq, Repr, Inhabited

/-- FREE VALUE (44_host_protocols R200, 91 N23; log 36): the legacy device's answers that `Legacy.answers` does not foretell,
by their number, and its answers to commands out of order (log 26). -/
opaque Config.bootAnswer : Nat → BootAnswer

/-- FREE VALUE (44_host_protocols R200; log 26): whether an operation of the legacy device that the chain has no arrow for, and
that succeeds, takes the host's record on to the state that the operation enters, by the number of its answer. -/
opaque Config.bootOffChain : Nat → Bool

/-- The integer fields that the host's payloads carry (44_host_protocols R188 to R191). -/
inductive IntField where
  | function | target | volume | length | address | crc | overwrite | timestamp | version | size | run
deriving DecidableEq, Repr

/-- The byte-string fields that the host's payloads carry (44_host_protocols R188, R189). The spec gives `type_tag` neither a
type nor codes (91 N16); that it is a byte string, laid out as the caller gives it, is the model's. DESIGN CHOICE, log 7. -/
inductive BlobField where
  | name | typeTag | data
deriving DecidableEq, Repr

/-- One piece of a payload layout. Integers are little-endian (20_memory R47). -/
inductive Piece where
  | const (bytes : Bytes)
  | int (f : IntField) (width : Nat)
  | blob (f : BlobField)
  | padded (f : BlobField) (width : Nat) (pad : Byte)
deriving DecidableEq, Repr

/-- A little-endian integer field of a reply: its byte offset and its width in bytes. -/
structure Slice where
  offset : Nat
  width : Nat
deriving DecidableEq, Repr, Inhabited

/-- The layout functions of 44_host_protocols R188 to R191, which the spec leaves open (91 N14 to N17, 93 U19):
which pieces a payload is made of, the numeric codes of the choices, and where a reply holds its fields. Log 7. -/
structure Layouts where
  init : List Piece
  write : List Piece
  read : List Piece
  complete : List Piece
  uploadCode : Nat
  downloadCode : Nat
  flashCode : Nat
  ramCode : Nat
  screenCode : Nat
  dontRunCode : Nat
  runNowCode : Nat
  runAndShowCode : Nat
  initReplyLen : Nat
  maxPacketSize : Slice
  fileSize : Slice
  deviceCrc : Slice
  readSkip : Nat
deriving DecidableEq, Repr, Inhabited

/-- FREE VALUE (93 U19; log 7): the layouts at reset. No proof can see them; an instruction's meaning reads them from
`State.params`, so a statement about every state holds for every value. -/
opaque Config.layouts : Layouts

/-- The parameters "a model takes as an argument" (00_scope R9; 93 U13, U14, U16, U17, U19). No step writes them. Log 6. -/
structure Params where
  /-- `ACK_BYTE` (92 D9). -/
  ackByte : Byte
  /-- `EXT_RX_INNER_LEN` (92 D12). -/
  innerLen : Bool
  /-- `FT_PAD_BYTE` (92 D35). -/
  padByte : Byte
  /-- `NACK_TRANSIENT` (92 D33). -/
  nackTransient : List NackCode
  /-- the "small bounded retry loop" of the legacy handshake: tries after the first one (44_host_protocols R200) -/
  bootExtraTries : Nat
  layouts : Layouts
deriving DecidableEq, Repr

/-- The defaults of 00_scope R9 and 44_host_protocols R197. -/
def Params.default : Params where
  ackByte := 0x76
  innerLen := true
  padByte := 0x00
  nackTransient := [.general, .crcError, .programCrcError]
  bootExtraTries := Config.bootExtraTries
  layouts := Config.layouts

end Sys2Proof
end

