-- ==== Sys2Proof/Machine/Flags.lean ====
section
/-! DEFINITION. The block has no condition codes and no sticky flags (10_state R30). What looks like a flag is a field of a
wire byte: bit 7 of the first length byte (30_encoding R66), and the truth of a caller's 1-bit operand. -/

namespace Sys2Proof.Machine

/-- Bit 7 of a length field's first byte: "the first with a continuation bit set" (30_encoding R66). -/
def continues (b : Byte) : Bool := b.msb

/-- Whether a length byte announces a second one: only for the reserved command (30_encoding R65). -/
def twoLengthBytes (cmd len0 : Byte) : Bool := cmd == Config.extCmd && continues len0

end Sys2Proof.Machine
end

