-- ==== Sys2Proof/Machine/Operands.lean ====
section
/-! DEFINITION. The multi-byte operands the block assembles (30_encoding R82): the 15-bit length, the CRC-16 trailer, the
4-byte topic; the length field's encoder and decoder (42_extended_packet R121, R122); integers as byte sequences. -/

namespace Sys2Proof

/-- The `n` low bytes of `v`, most significant first (20_memory R47, 40_crc R93). -/
def beBytes : Nat → Nat → Bytes
  | 0, _ => []
  | n + 1, v => BitVec.ofNat 8 (v / 256 ^ n) :: beBytes n v

/-- The integer a byte sequence spells, most significant byte first. -/
def beNat (bs : Bytes) : Nat := bs.foldl (fun acc b => acc * 256 + b.toNat) 0

/-- The `n` low bytes of `v`, least significant first (20_memory R47). -/
def leBytes : Nat → Nat → Bytes
  | 0, _ => []
  | n + 1, v => BitVec.ofNat 8 v :: leBytes n (v / 256)

/-- The integer a byte sequence spells, least significant byte first. -/
def leNat : Bytes → Nat
  | [] => 0
  | b :: bs => b.toNat + 256 * leNat bs

/-- The four bytes of a tag. -/
def Topic.bytes (t : Topic) : Bytes := [t.b0, t.b1, t.b2, t.b3]

/-- The tag that four bytes spell; none for any other number of bytes (30_encoding R79). -/
def Topic.ofBytes : Bytes → Option Topic
  | [a, b, c, d] => some ⟨a, b, c, d⟩
  | _ => none

/-- The order in which the subscription set is kept (the model's own; the set itself has no order). -/
def Topic.key (t : Topic) : Nat := beNat t.bytes

namespace Machine

/-- Bits 14 to 8 of a two-byte length from its first byte, in place (30_encoding R65, R82). -/
def lenHigh (b : Byte) : BitVec 15 := (b &&& 0x7F).setWidth 15 <<< 8

/-- The 15-bit length of a two-byte field, high part first (30_encoding R65, R82). -/
def lenTwo (b0 b1 : Byte) : BitVec 15 := lenHigh b0 ||| b1.setWidth 15

/-- `EXT.LENENC(L)` (42_extended_packet R121). -/
def extLenEnc (len : Nat) : Except Err Bytes :=
  if len > Config.extLenMax then .error (.lengthOverflow len)
  else if len < Config.extLenThreshold then .ok [BitVec.ofNat 8 len]
  else .ok [0x80 ||| BitVec.ofNat 8 (len >>> 8), BitVec.ofNat 8 (len &&& 0xFF)]

/-- `EXT.LENDEC(s)`: the length and the number of bytes the field took (42_extended_packet R122). -/
def extLenDec : Bytes → Except Err (Nat × Nat)
  | [] => .error .unexpectedLength
  | b0 :: rest =>
    if continues b0 then
      match rest with
      | [] => .error .unexpectedLength
      | b1 :: _ => .ok ((lenTwo b0 b1).toNat, 2)
    else .ok (b0.toNat, 1)

/-- The CRC-16 trailer, high byte first (30_encoding R70). -/
def trailer (crc : BitVec 16) : Bytes := [(crc >>> 8).setWidth 8, crc.setWidth 8]

end Machine

end Sys2Proof
end

