-- ==== Sys2Proof/Machine/CobsUnit.lean ====
section
/-! DEFINITION. The byte-unstuffing codec (43_mux_stream R162, R163) and the delimiter detector, decoder and topic filter
of the stream reader (R168 to R172) as functions. -/

namespace Sys2Proof.Machine

/-- The loop of 43_mux_stream R162: `out` so far, then the bytes still to read. `fuel` bounds the number of blocks; the
number of bytes is always enough. `none` is the outcome `Malformed`. -/
def cobsLoop : (fuel : Nat) → (out rest : Bytes) → Option Bytes
  | _, out, [] => some out
  | 0, _, _ :: _ => none
  | fuel + 1, out, c :: rest =>
    let n := c.toNat - 1
    if c = 0 then none
    else if rest.length < n then none
    else if (rest.take n).contains 0 then none
    else
      let out' := out ++ rest.take n
      let rest' := rest.drop n
      cobsLoop fuel (if c ≠ 0xFF ∧ rest' ≠ [] then out' ++ [0] else out') rest'

/-- `COBS.DECODE(e)` (43_mux_stream R162); `none` is `Malformed`. -/
def cobsDecode (e : Bytes) : Option Bytes := cobsLoop e.length [] e

/-- The segments of `d` between its zero bytes (43_mux_stream R163): one more than there are zeros. -/
def splitZeros : Bytes → List Bytes
  | [] => [[]]
  | b :: bs =>
    if b = 0 then [] :: splitZeros bs
    else match splitZeros bs with
      | [] => [[b]]
      | s :: ss => (b :: s) :: ss

/-- The blocks of one segment; `last` says that it is the frame's last (43_mux_stream R163). -/
def cobsSegment (last : Bool) (s : Bytes) : Bytes :=
  let q := s.length / 254
  let r := s.length % 254
  (List.range q).flatMap (fun k => 0xFF :: (s.drop (254 * k)).take 254) ++
    if last ∧ s ≠ [] ∧ r = 0 then [] else BitVec.ofNat 8 (r + 1) :: s.drop (254 * q)

/-- The blocks of a list of segments (43_mux_stream R163). -/
def cobsSegments : List Bytes → Bytes
  | [] => []
  | [s] => cobsSegment true s
  | s :: ss => cobsSegment false s ++ cobsSegments ss

/-- `COBS.ENCODE(d)`, the reference encoder (43_mux_stream R163). -/
def cobsEncode (d : Bytes) : Bytes := cobsSegments (splitZeros d)

/-- Insert a tag into the subscription set, kept strictly rising (43_mux_stream R165). -/
def insertTopic (t : Topic) : List Topic → List Topic
  | [] => [t]
  | u :: us => if t = u then u :: us else if t.key < u.key then t :: u :: us else u :: insertTopic t us

/-- Remove a tag from the subscription set (43_mux_stream R166). -/
def removeTopic (t : Topic) (subs : List Topic) : List Topic := subs.filter (· ≠ t)

/-- The topic and payload of a raw frame that decodes and has at least 4 bytes (43_mux_stream R168, R171, R172). -/
def frameOfRaw (raw : Bytes) : Option (Topic × Bytes) :=
  match cobsDecode raw with
  | some (a :: b :: c :: d :: payload) => some (⟨a, b, c, d⟩, payload)
  | _ => none

/-- What the reader delivers for a raw frame: the frame, if it is well formed and passes the topic filter
(43_mux_stream R170 to R172). -/
def acceptRaw (subs : List Topic) (promisc : Bool) (raw : Bytes) : Option (Topic × Bytes) :=
  match frameOfRaw raw with
  | some (t, payload) => if promisc || subs.contains t then some (t, payload) else none
  | none => none

/-- Cut the stream buffer at its delimiters until a frame is delivered (43_mux_stream R168, R169): the delivered frame, if
any, and what stays in the buffer. `raw` is the part of the current raw frame already passed. -/
def muxScan (subs : List Topic) (promisc : Bool) : (raw buf : Bytes) → Option (Topic × Bytes) × Bytes
  | raw, [] => (none, raw)
  | raw, b :: bs =>
    if b = Config.muxDelim then
      match acceptRaw subs promisc raw with
      | some f => (some f, bs)
      | none => muxScan subs promisc [] bs
    else muxScan subs promisc (raw ++ [b]) bs

/-- One multiplexed frame on the wire, with its delimiter (30_encoding R72). -/
def muxFrame (t : Topic) (payload : Bytes) : Bytes := cobsEncode (t.bytes ++ payload) ++ [Config.muxDelim]

end Sys2Proof.Machine
end

