-- ==== Sys2Proof/Machine/Codes.lean ====
section
/-! DEFINITION. The code spaces of 30_encoding: the NACK catalogue (R76), the named sub-commands (R75), and the
classification of errors by the retry wrapper (44_host_protocols R197). -/

namespace Sys2Proof

/-- The catalogue byte of a rejection code (30_encoding R76). -/
def NackCode.byte : NackCode → Byte
  | .general => 0xFF
  | .crcError => 0xCE
  | .payloadTooSmall => 0xD0
  | .requestTooLarge => 0xD1
  | .programCrcError => 0xD2
  | .programFileError => 0xD3
  | .uninitializedTransfer => 0xD4
  | .invalidInitForFunction => 0xD5
  | .dataNotMultipleOf4 => 0xD6
  | .addressMismatch => 0xD7
  | .lengthMismatch => 0xD8
  | .directoryEntryMissing => 0xD9
  | .maxFilesReached => 0xDA
  | .fileExists => 0xDB

/-- All rejection codes, in the order of 30_encoding R76. -/
def NackCode.all : List NackCode :=
  [.general, .crcError, .payloadTooSmall, .requestTooLarge, .programCrcError, .programFileError, .uninitializedTransfer,
   .invalidInitForFunction, .dataNotMultipleOf4, .addressMismatch, .lengthMismatch, .directoryEntryMissing,
   .maxFilesReached, .fileExists]

/-- The catalogue: the code whose byte this is, if it is a key (10_state R27, 30_encoding R76). -/
def nackOfByte (b : Byte) : Option NackCode := NackCode.all.find? (fun c => c.byte == b)

/-- The human-readable reason of a code. The spec gives one text only (60_exceptions R235, 91 N12). -/
def NackCode.reason : NackCode → Option String
  | .directoryEntryMissing => some "Directory entry does not exist"
  | _ => none

/-- The 14 named sub-command codes (30_encoding R75). -/
def namedSubs : Bytes :=
  [0x11, 0x12, 0x13, 0x14, 0x15, 0x16, 0x17, 0x18, 0x19, 0x1A, 0x1B, 0x1C, 0x22, 0x28]

/-- The constraint on `ACK_BYTE` (00_scope R9, 93 U8) and the document's example of a code that is never transient
(44_host_protocols R197, 60_exceptions R237). -/
def Params.wf (p : Params) : Bool :=
  (nackOfByte p.ackByte).isNone && !p.nackTransient.contains .fileExists

/-- `CLASSIFY(e)`: whether the retry wrapper tries again (44_host_protocols R197). -/
def classifyErr (p : Params) : Err → Bool
  | .transport _ => false
  | .frameSyncTimeout => true
  | .checksumMismatch => true
  | .deviceRejected code => p.nackTransient.contains code
  | .unexpectedAck _ => true
  | .unexpectedLength => true
  | .unexpectedCommand _ => true
  | .unexpectedSubCommand _ => true
  | .cancelled => false
  | .lengthOverflow _ => false
  | .invalidWidth _ => false
  | .invalidTopic _ => false
  | .busy => false

/-- The kind of an error (60_exceptions R210). -/
def Err.kind : Err → ErrKind
  | .transport _ => .transport
  | .frameSyncTimeout => .frameSyncTimeout
  | .checksumMismatch => .checksumMismatch
  | .deviceRejected _ => .deviceRejected
  | .unexpectedAck _ => .unexpectedAck
  | .unexpectedLength => .unexpectedLength
  | .unexpectedCommand _ => .unexpectedCommand
  | .unexpectedSubCommand _ => .unexpectedSubCommand
  | .lengthOverflow _ => .lengthOverflow
  | .invalidWidth _ => .invalidWidth
  | .invalidTopic _ => .invalidTopic
  | .cancelled => .cancelled
  | .busy => .busy

/-- `retryable(e)` (44_host_protocols R196): `CLASSIFY(e)` by default, else the caller's choice. -/
def retries (p : Params) : Retryable → Err → Bool
  | .classify, e => classifyErr p e
  | .these kinds errs, e => kinds.contains e.kind || errs.contains e

end Sys2Proof
end

