-- ==== Sys2Proof/WellFormed.lean ====
section
/-! DEFINITION. Which instructions are well formed: the operand constraints of the spec, and the widths of the operand
fields at the port (log 1). The decoder answers well-formed instructions only. -/

namespace Sys2Proof

/-- A natural that fits `k` bytes of the port. -/
def fits (k n : Nat) : Bool := decide (n < 256 ^ k)

/-- A byte sequence whose length the port can announce. -/
def fitsBytes (bs : Bytes) : Bool := fits 4 bs.length

/-- `expected_len` is 0 to 32767 (10_state R31). -/
def Checks.wellFormed (c : Checks) : Bool := decide (c.expectedLen ≤ Config.extLenMax)

/-- The packet record an `SP.RX` gives: `raw = H ++ payload`, `len(H) = hlen` (42_extended_packet R124). -/
def Packet.wellFormed (p : Packet) : Bool :=
  fits 1 p.hlen && fitsBytes p.raw && decide (p.payload = p.raw.drop p.hlen)

/-- A table that a `CRC.BUILD` can produce (70_reset_and_hazards R266). -/
def TableRef.wellFormed (t : TableRef) : Bool :=
  decide (Config.crcWidthMin ≤ t.width) && fits 2 (t.width - Config.crcWidthMin) && fits 8 t.poly

def InitArgs.wellFormed (a : InitArgs) : Bool :=
  fitsBytes a.name && fits 4 a.volume && fits 4 a.length && fits 4 a.address && fitsBytes a.typeTag && fits 4 a.timestamp
    && fits 4 a.version

/-- The chunk size is at least 1 (44_host_protocols R193). -/
def UploadArgs.wellFormed (a : UploadArgs) : Bool :=
  fitsBytes a.name && fitsBytes a.payload && fits 4 a.volume && fits 4 a.address && fitsBytes a.typeTag && fits 4 a.timestamp
    && fits 4 a.version && decide (1 ≤ a.chunk) && fits 2 (a.chunk - 1)

/-- The chunk size is at least 1 (44_host_protocols R193). -/
def DownloadArgs.wellFormed (a : DownloadArgs) : Bool :=
  fitsBytes a.name && fits 4 a.length && fits 4 a.volume && fits 4 a.address && fitsBytes a.typeTag && fits 4 a.timestamp
    && fits 4 a.version && a.checks.wellFormed && decide (1 ≤ a.chunk) && fits 2 (a.chunk - 1)

def Err.wellFormed : Err → Bool
  | .lengthOverflow n => fits 4 n
  | .invalidWidth n => fits 4 n
  | .invalidTopic t => fitsBytes t
  | _ => true

/-- A choice of retryable errors that the port can spell. -/
def Retryable.wellFormed : Retryable → Bool
  | .classify => true
  | .these kinds errs => fits 2 kinds.length && fits 2 errs.length && errs.all Err.wellFormed

/-- At least one attempt (93 U6). -/
def RetryPolicy.wellFormed (r : RetryPolicy) : Bool := decide (1 ≤ r.max) && fits 1 (r.max - 1) && r.retryable.wellFormed

/-- A program-write has at most `BOOT_WRITE_MAX` bytes (44_host_protocols R200). -/
def BootOp.wellFormed : BootOp → Bool
  | .handshake => true
  | .erase .all => true
  | .erase (.pages numbers) => fits 2 numbers.length && numbers.all (fits 4)
  | .programWrite address data => fits 4 address && decide (data.length ≤ Config.bootWriteMax)
  | .jump address => fits 4 address

def HostOp.wellFormed : HostOp → Bool
  | .xchg _ payload c => fitsBytes payload && c.wellFormed
  | .init a => a.wellFormed
  | .write address data => fits 4 address && fitsBytes data
  | .read address n c => fits 4 address && fits 4 n && c.wellFormed
  | .complete _ => true
  | .upload a => a.wellFormed
  | .download a => a.wellFormed
  | .command _ payload c => fitsBytes payload && c.wellFormed
  | .status payload c => fitsBytes payload && c.wellFormed
  | .boot op => op.wellFormed

/-- The largest payload a reply can carry (42_extended_packet R127: 32762 with the inner length field, 32764 without). -/
def replyMax (p : Params) : Nat := if p.innerLen then 32762 else 32764

/-- The operands of a sub-command's exchange fit the port. -/
def subWellFormed (payload : Bytes) (c : Checks) : Bool := fitsBytes payload && c.wellFormed

/-- The check of every operand constraint, row by row. -/
def Instr.wellFormed (p : Params) : Instr → Bool
  | .crcBuild w P => fits 2 w && fits 8 P
  | .crcUpd w t acc _ => decide (Config.crcWidthMin ≤ w) && fits 2 (w - Config.crcWidthMin) && t.wellFormed && fits 8 acc
  | .crcCompute w t bs init =>
    decide (Config.crcWidthMin ≤ w) && fits 2 (w - Config.crcWidthMin) && t.wellFormed && fitsBytes bs && fits 8 init
  | .crc16Compute bs _ => fitsBytes bs
  | .crc32Compute bs _ => fitsBytes bs
  | .spTx _ payload => fitsBytes payload
  | .spRx => true
  | .spStep _ => true
  | .extLenEnc n => fits 4 n
  | .extLenDec bs => fitsBytes bs
  | .extTx _ payload => fitsBytes payload
  | .extDecode pk _ c => pk.wellFormed && c.wellFormed
  | .extRx _ c => c.wellFormed
  | .ackDecode _ => true
  | .cobsDecode bs => fitsBytes bs
  | .cobsEncode bs => fitsBytes bs
  | .muxSub t => fitsBytes t
  | .muxUnsub t => fitsBytes t
  | .muxPromisc _ => true
  | .muxRead => true
  | .muxWrite bs => fitsBytes bs
  | .muxCancel => true
  | .extXchg _ payload c => fitsBytes payload && c.wellFormed
  | .ftInit a => a.wellFormed
  | .ftWrite address data => fits 4 address && fitsBytes data
  | .ftRead address n c => fits 4 address && fits 4 n && c.wellFormed
  | .ftComplete _ => true
  | .ftUpload a => a.wellFormed
  | .ftDownload a => a.wellFormed
  | .retry op policy => op.wellFormed && policy.wellFormed
  | .classify e => e.wellFormed
  | .fSptxHeader _ payload => fitsBytes payload
  | .fSprxShort cmd payload => decide (payload.length < (if cmd = Config.extCmd then 128 else 256))
  | .fSprxLong payload => decide (payload.length ≤ Config.extLenMax)
  | .fLenShort _ => true
  | .fLenLong _ => true
  | .fExtTx _ payload => decide (payload.length ≤ Config.extLenMax)
  | .fExtRx _ payload => decide (payload.length ≤ replyMax p)
  | .fMuxDelim => true
  | .fMuxFrame _ payload => fitsBytes payload
  | .fCobsBlock data => decide (data.length ≤ 254) && !data.contains 0
  | .cmdExt => true
  | .ack => (nackOfByte p.ackByte).isNone
  | .subFtInit payload c => subWellFormed payload c
  | .subFtComplete payload c => subWellFormed payload c
  | .subFtWrite payload c => subWellFormed payload c
  | .subFtRead payload c => subWellFormed payload c
  | .subFtSetLink payload c => subWellFormed payload c
  | .subDirCount payload c => subWellFormed payload c
  | .subDirEntry payload c => subWellFormed payload c
  | .subExecFile payload c => subWellFormed payload c
  | .subFileMetaGet payload c => subWellFormed payload c
  | .subFileMetaSet payload c => subWellFormed payload c
  | .subFileErase payload c => subWellFormed payload c
  | .subSlotGet payload c => subWellFormed payload c
  | .subSysStatus payload c => subWellFormed payload c
  | .subScreenCapInit payload c => subWellFormed payload c
  | .subOther sub payload c => !namedSubs.contains sub && subWellFormed payload c
  | .nackGeneral => true
  | .nackCrcError => true
  | .nackPayloadTooSmall => true
  | .nackRequestTooLarge => true
  | .nackProgramCrcError => true
  | .nackProgramFileError => true
  | .nackUninitializedTransfer => true
  | .nackInvalidInitForFunction => true
  | .nackDataNotMultipleOf4 => true
  | .nackAddressMismatch => true
  | .nackLengthMismatch => true
  | .nackDirectoryEntryMissing => true
  | .nackMaxFilesReached => true
  | .nackFileExists => true
  | .nackOther b => (nackOfByte b).isNone && b ≠ p.ackByte

end Sys2Proof
end

