-- ==== Sys2Proof/Decode.lean ====
section
/-! DEFINITION. The decoder of the operation port, total on any bytes, and after it the encoder.

The spec gives the operations a selector (30_encoding R80, R81, opcode_table.json) and no binary operand fields, and the
wire formats their own bytes (R63 to R73). Rows of different formats share words (0x11 is `MUX.UNSUB` as a selector and
`FT_INIT` as a sub-command), so an instruction at the port begins with a byte that names its row's format space.
DESIGN CHOICE, log 1. Then come the row's own bits, first wire byte first, then the operands: numbers high byte first,
a byte sequence after its 4-byte length. -/

namespace Sys2Proof

/-- Why bytes at the port are no instruction. -/
inductive DecodeError where
  /-- the bytes end inside an instruction -/
  | truncated
  /-- the first byte names no format space -/
  | noSpace (b : Byte)
  /-- selector 31, which no row has (30_encoding R80, R81) -/
  | reservedSelector
  /-- the bytes do not match the row's fixed bits -/
  | badPattern
  /-- an operand byte outside its choices -/
  | badOperand
  /-- an operand outside the constraints of `Instr.wellFormed` -/
  | illFormed
deriving DecidableEq, Repr

/-- A decoder of some of the port's bytes. -/
abbrev Dec (α : Type) := StateT Bytes (Except DecodeError) α

/-- Refuse. -/
def Dec.fail {α : Type} (e : DecodeError) : Dec α := fun _ => .error e

/-- The first `n` bytes and the rest, if there are `n`. -/
def splitExact : Nat → Bytes → Option (Bytes × Bytes)
  | 0, bs => some ([], bs)
  | _ + 1, [] => none
  | n + 1, b :: bs => (splitExact n bs).map fun r => (b :: r.1, r.2)

def getRaw (n : Nat) : Dec Bytes := fun s =>
  match splitExact n s with
  | some r => .ok r
  | none => .error .truncated

def getByte : Dec Byte := fun s =>
  match s with
  | [] => .error .truncated
  | b :: bs => .ok (b, bs)

def getNat (k : Nat) : Dec Nat := do return beNat (← getRaw k)
def getBytes : Dec Bytes := do getRaw (← getNat 4)

def getBool : Dec Bool := do
  let b ← getByte
  if b = 0 then return false else if b = 1 then return true else Dec.fail .badOperand

def getFunction : Dec TransferFunction := do
  let b ← getByte
  if b = 0 then return .upload else if b = 1 then return .download else Dec.fail .badOperand

def getTarget : Dec TransferTarget := do
  let b ← getByte
  if b = 0 then return .flash else if b = 1 then return .ram else if b = 2 then return .screen else Dec.fail .badOperand

def getRun : Dec RunOption := do
  let b ← getByte
  if b = 0 then return .dontRun else if b = 1 then return .runNow else if b = 2 then return .runAndShow
  else Dec.fail .badOperand

def getChecks : Dec Checks := do
  let ack ← getBool
  let len ← getBool
  let n ← getNat 2
  return ⟨ack, len, n⟩

/-- A table reference; the width stands as its excess over 8, the least width a table has (40_crc R94). -/
def getTable : Dec TableRef := do
  let w ← getNat 2
  let P ← getNat 8
  return ⟨w + Config.crcWidthMin, P⟩

def getEvent : Dec ChanEvent := do
  let t ← getByte
  let b ← getByte
  if t = 0 then return .byte b else if t = 1 then return .timeout else if t = 2 then return .fail else Dec.fail .badOperand

def getPacket : Dec Packet := do
  let cmd ← getByte
  let hlen ← getNat 1
  let raw ← getBytes
  return ⟨cmd, raw.drop hlen, raw, hlen⟩

def getInit : Dec InitArgs := do
  let name ← getBytes
  let function ← getFunction
  let target ← getTarget
  let volume ← getNat 4
  let length ← getNat 4
  let address ← getNat 4
  let crc ← getNat 4
  let overwrite ← getBool
  let typeTag ← getBytes
  let timestamp ← getNat 4
  let version ← getNat 4
  return ⟨name, function, target, volume, length, address, BitVec.ofNat 32 crc, overwrite, typeTag, timestamp, version⟩

/-- The chunk size stands as its excess over 1 (44_host_protocols R193: `0 < M`). -/
def getUpload : Dec UploadArgs := do
  let name ← getBytes
  let payload ← getBytes
  let target ← getTarget
  let volume ← getNat 4
  let address ← getNat 4
  let overwrite ← getBool
  let typeTag ← getBytes
  let timestamp ← getNat 4
  let version ← getNat 4
  let run ← getRun
  let m ← getNat 2
  return ⟨name, payload, target, volume, address, overwrite, typeTag, timestamp, version, run, m + 1⟩

def getDownload : Dec DownloadArgs := do
  let name ← getBytes
  let length ← getNat 4
  let target ← getTarget
  let volume ← getNat 4
  let address ← getNat 4
  let overwrite ← getBool
  let typeTag ← getBytes
  let timestamp ← getNat 4
  let version ← getNat 4
  let checks ← getChecks
  let m ← getNat 2
  return ⟨name, length, target, volume, address, overwrite, typeTag, timestamp, version, checks, m + 1⟩

/-- The code whose catalogue byte this is. -/
def getNack : Dec NackCode := do
  let b ← getByte
  match nackOfByte b with
  | some c => return c
  | none => Dec.fail .badOperand

/-- An error as an operand of `CLASSIFY`; the numbers follow the order of 60_exceptions R210 (92 D29). -/
def getErr : Dec Err := do
  let t ← getByte
  if t = 0 then return .transport .shortRead
  else if t = 1 then return .transport .channelFailure
  else if t = 2 then return .frameSyncTimeout
  else if t = 3 then return .checksumMismatch
  else if t = 4 then return .deviceRejected (← getNack)
  else if t = 5 then return .unexpectedAck none
  else if t = 6 then return .unexpectedAck (some (← getByte))
  else if t = 7 then return .unexpectedLength
  else if t = 8 then return .unexpectedCommand (← getByte)
  else if t = 9 then return .unexpectedSubCommand (← getByte)
  else if t = 10 then return .lengthOverflow (← getNat 4)
  else if t = 11 then return .invalidWidth (← getNat 4)
  else if t = 12 then return .invalidTopic (← getBytes)
  else if t = 13 then return .cancelled
  else if t = 14 then return .busy
  else Dec.fail .badOperand

/-- The number of a kind of error in the order of 60_exceptions R210. -/
def ErrKind.number : ErrKind → Byte
  | .transport => 0
  | .frameSyncTimeout => 1
  | .checksumMismatch => 2
  | .deviceRejected => 3
  | .unexpectedAck => 4
  | .unexpectedLength => 5
  | .unexpectedCommand => 6
  | .unexpectedSubCommand => 7
  | .lengthOverflow => 8
  | .invalidWidth => 9
  | .invalidTopic => 10
  | .cancelled => 11
  | .busy => 12

/-- All kinds of error. -/
def ErrKind.all : List ErrKind :=
  [.transport, .frameSyncTimeout, .checksumMismatch, .deviceRejected, .unexpectedAck, .unexpectedLength,
   .unexpectedCommand, .unexpectedSubCommand, .lengthOverflow, .invalidWidth, .invalidTopic, .cancelled, .busy]

/-- A kind of error by its number. -/
def getErrKind : Dec ErrKind := do
  let b ← getByte
  match ErrKind.all.find? (fun k => k.number == b) with
  | some k => return k
  | none => Dec.fail .badOperand

/-- `n` things one after another. -/
def getMany {α : Type} (d : Dec α) : Nat → Dec (List α)
  | 0 => return []
  | n + 1 => do
    let a ← d
    let as ← getMany d n
    return a :: as

/-- A list after its 2-byte length. -/
def getList {α : Type} (d : Dec α) : Dec (List α) := do getMany d (← getNat 2)

/-- The operand `retryable` of `RETRY`: 0 for `CLASSIFY`, 1 for a choice of the caller's. -/
def getRetryable : Dec Retryable := do
  let t ← getByte
  if t = 0 then return .classify
  else if t = 1 then
    let kinds ← getList getErrKind
    let errs ← getList getErr
    return .these kinds errs
  else Dec.fail .badOperand

/-- A retry policy; the number of attempts stands as its excess over 1. -/
def getPolicy : Dec RetryPolicy := do
  let m ← getNat 1
  let r ← getRetryable
  return ⟨m + 1, r⟩

/-- An operation of the legacy device; a program-write's length stands in 2 bytes. -/
def getBoot : Dec BootOp := do
  let t ← getByte
  if t = 0 then return .handshake
  else if t = 1 then return .erase .all
  else if t = 2 then return .erase (.pages (← getList (getNat 4)))
  else if t = 3 then
    let a ← getNat 4
    let d ← getRaw (← getNat 2)
    return .programWrite a d
  else if t = 4 then return .jump (← getNat 4)
  else Dec.fail .badOperand

def getHostOp : Dec HostOp := do
  let t ← getByte
  if t = 0 then
    let sub ← getByte
    let payload ← getBytes
    let c ← getChecks
    return .xchg sub payload c
  else if t = 1 then return .init (← getInit)
  else if t = 2 then
    let a ← getNat 4
    let d ← getBytes
    return .write a d
  else if t = 3 then
    let a ← getNat 4
    let n ← getNat 4
    let c ← getChecks
    return .read a n c
  else if t = 4 then return .complete (← getRun)
  else if t = 5 then return .upload (← getUpload)
  else if t = 6 then return .download (← getDownload)
  else if t = 7 then
    let code ← getByte
    let payload ← getBytes
    let c ← getChecks
    return .command code payload c
  else if t = 8 then
    let payload ← getBytes
    let c ← getChecks
    return .status payload c
  else if t = 9 then return .boot (← getBoot)
  else Dec.fail .badOperand

/-- The selector space, operations 0 to 30 (30_encoding R80, R81): the selector is bits 4 to 0 of its byte, the bits above
are not part of the table's pattern. -/
def decodeOp : Dec Instr := do
  let b ← getByte
  match (b &&& 0x1F).toNat with
  | 0 => do
    let w ← getNat 2
    let P ← getNat 8
    return .crcBuild w P
  | 1 => do
    let w ← getNat 2
    let t ← getTable
    let acc ← getNat 8
    let d ← getByte
    return .crcUpd (w + Config.crcWidthMin) t acc d
  | 2 => do
    let w ← getNat 2
    let t ← getTable
    let init ← getNat 8
    let bs ← getBytes
    return .crcCompute (w + Config.crcWidthMin) t bs init
  | 3 => do
    let init ← getNat 2
    let bs ← getBytes
    return .crc16Compute bs (BitVec.ofNat 16 init)
  | 4 => do
    let init ← getNat 4
    let bs ← getBytes
    return .crc32Compute bs (BitVec.ofNat 32 init)
  | 5 => do
    let cmd ← getByte
    let payload ← getBytes
    return .spTx cmd payload
  | 6 => return .spRx
  | 7 => return .spStep (← getEvent)
  | 8 => return .extLenEnc (← getNat 4)
  | 9 => return .extLenDec (← getBytes)
  | 10 => do
    let sub ← getByte
    let payload ← getBytes
    return .extTx sub payload
  | 11 => do
    let p ← getPacket
    let sub ← getByte
    let c ← getChecks
    return .extDecode p sub c
  | 12 => do
    let sub ← getByte
    let c ← getChecks
    return .extRx sub c
  | 13 => return .ackDecode (← getByte)
  | 14 => return .cobsDecode (← getBytes)
  | 15 => return .cobsEncode (← getBytes)
  | 16 => return .muxSub (← getBytes)
  | 17 => return .muxUnsub (← getBytes)
  | 18 => return .muxPromisc (← getBool)
  | 19 => return .muxRead
  | 20 => return .muxWrite (← getBytes)
  | 21 => return .muxCancel
  | 22 => do
    let sub ← getByte
    let payload ← getBytes
    let c ← getChecks
    return .extXchg sub payload c
  | 23 => return .ftInit (← getInit)
  | 24 => do
    let a ← getNat 4
    let d ← getBytes
    return .ftWrite a d
  | 25 => do
    let a ← getNat 4
    let n ← getNat 4
    let c ← getChecks
    return .ftRead a n c
  | 26 => return .ftComplete (← getRun)
  | 27 => return .ftUpload (← getUpload)
  | 28 => return .ftDownload (← getDownload)
  | 29 => do
    let policy ← getPolicy
    let op ← getHostOp
    return .retry op policy
  | 30 => return .classify (← getErr)
  | _ => Dec.fail .reservedSelector

/-- Bytes that must stand as the row fixes them. -/
def expectBytes (want : Bytes) : Dec Unit := do
  let got ← getRaw want.length
  if got = want then return () else Dec.fail .badPattern

/-- `F-SPTX.HEADER` (30_encoding R64). -/
def decodeSptx : Dec Instr := do
  expectBytes Config.spTxHeader
  let cmd ← getByte
  let payload ← getBytes
  return .fSptxHeader cmd payload

/-- `F-SPRX.SHORT` and `F-SPRX.LONG` (30_encoding R65): the size of the length field depends on `cmd` and on bit 7 of its
first byte. -/
def decodeSprx : Dec Instr := do
  expectBytes [Config.sync0, Config.sync1]
  let cmd ← getByte
  let len0 ← getByte
  if Machine.twoLengthBytes cmd len0 then
    let len1 ← getByte
    return .fSprxLong (← getRaw (Machine.lenTwo len0 len1).toNat)
  else return .fSprxShort cmd (← getRaw len0.toNat)

/-- `F-LEN.SHORT` and `F-LEN.LONG` (30_encoding R66). -/
def decodeLen : Dec Instr := do
  let b0 ← getByte
  if Machine.continues b0 then
    let b1 ← getByte
    return .fLenLong (Machine.lenTwo b0 b1)
  else return .fLenShort (b0.setWidth 7)

/-- `F-EXT.TX` (30_encoding R68) and `F-EXT.RX` (R69), told apart by their headers; the codec makes length field and
trailer, so they are no operands. -/
def decodeExt : Dec Instr := do
  let b ← getByte
  if b = Config.sync0 then
    expectBytes [Config.sync1, Config.extCmd]
    let sub ← getByte
    let payload ← getBytes
    return .fExtRx sub payload
  else if b = 0xC9 then
    expectBytes [0x36, 0xB8, 0x47, Config.extCmd]
    let sub ← getByte
    let payload ← getBytes
    return .fExtTx sub payload
  else Dec.fail .badPattern

/-- `F-MUX.DELIM` (43_mux_stream R169). -/
def decodeDelim : Dec Instr := do
  expectBytes [Config.muxDelim]
  return .fMuxDelim

/-- `F-MUX.FRAME` (30_encoding R72): the topic's four bytes, then the payload. -/
def decodeFrame : Dec Instr := do
  let a ← getByte
  let b ← getByte
  let c ← getByte
  let d ← getByte
  let payload ← getBytes
  return .fMuxFrame ⟨a, b, c, d⟩ payload

/-- `F-COBS.BLOCK` (30_encoding R73): the code byte `c`, then `c - 1` data bytes. -/
def decodeBlock : Dec Instr := do
  let c ← getByte
  if c = 0 then Dec.fail .badPattern else return .fCobsBlock (← getRaw (c.toNat - 1))

/-- `CMD.EXT` (30_encoding R74). -/
def decodeCmd : Dec Instr := do
  expectBytes [Config.extCmd]
  return .cmdExt

/-- The row of a rejection code (60_exceptions R224 to R237). -/
def nackInstr : NackCode → Instr
  | .general => .nackGeneral
  | .crcError => .nackCrcError
  | .payloadTooSmall => .nackPayloadTooSmall
  | .requestTooLarge => .nackRequestTooLarge
  | .programCrcError => .nackProgramCrcError
  | .programFileError => .nackProgramFileError
  | .uninitializedTransfer => .nackUninitializedTransfer
  | .invalidInitForFunction => .nackInvalidInitForFunction
  | .dataNotMultipleOf4 => .nackDataNotMultipleOf4
  | .addressMismatch => .nackAddressMismatch
  | .lengthMismatch => .nackLengthMismatch
  | .directoryEntryMissing => .nackDirectoryEntryMissing
  | .maxFilesReached => .nackMaxFilesReached
  | .fileExists => .nackFileExists

/-- The acknowledgment byte space (30_encoding R76): one value is `ACK_BYTE`, fourteen are the catalogue's. -/
def decodeAck (p : Params) : Dec Instr := do
  let b ← getByte
  match nackOfByte b with
  | some c => return nackInstr c
  | none => if b = p.ackByte then return .ack else return .nackOther b

/-- The row of a sub-command byte (30_encoding R75, 42_extended_packet R145). -/
def subInstr (sub : Byte) (payload : Bytes) (c : Checks) : Instr :=
  if sub = 0x11 then .subFtInit payload c
  else if sub = 0x12 then .subFtComplete payload c
  else if sub = 0x13 then .subFtWrite payload c
  else if sub = 0x14 then .subFtRead payload c
  else if sub = 0x15 then .subFtSetLink payload c
  else if sub = 0x16 then .subDirCount payload c
  else if sub = 0x17 then .subDirEntry payload c
  else if sub = 0x18 then .subExecFile payload c
  else if sub = 0x19 then .subFileMetaGet payload c
  else if sub = 0x1A then .subFileMetaSet payload c
  else if sub = 0x1B then .subFileErase payload c
  else if sub = 0x1C then .subSlotGet payload c
  else if sub = 0x22 then .subSysStatus payload c
  else if sub = 0x28 then .subScreenCapInit payload c
  else .subOther sub payload c

/-- The sub-command byte space (30_encoding R75). -/
def decodeSub : Dec Instr := do
  let sub ← getByte
  let payload ← getBytes
  let c ← getChecks
  return subInstr sub payload c

/-- The format spaces, by the number the port gives them (log 1). -/
def decodeSpace (p : Params) (b : Byte) : Dec Instr :=
  match b.toNat with
  | 0 => decodeOp
  | 1 => decodeSptx
  | 2 => decodeSprx
  | 3 => decodeLen
  | 4 => decodeExt
  | 5 => decodeDelim
  | 6 => decodeFrame
  | 7 => decodeBlock
  | 8 => decodeCmd
  | 9 => decodeAck p
  | 10 => decodeSub
  | _ => Dec.fail (.noSpace b)

/-- The instruction at the head of the port's bytes, and the bytes after it. It is well formed. -/
def decode (p : Params) : Bytes → Except DecodeError (Instr × Bytes)
  | [] => .error .truncated
  | b :: bs =>
    match (decodeSpace p b).run bs with
    | .error e => .error e
    | .ok (i, rest) => if i.wellFormed p then .ok (i, rest) else .error .illFormed

/-! The encoder. -/

def putBytes (bs : Bytes) : Bytes := beBytes 4 bs.length ++ bs
def putBool (b : Bool) : Bytes := [if b then 1 else 0]

def putFunction : TransferFunction → Bytes
  | .upload => [0]
  | .download => [1]

def putTarget : TransferTarget → Bytes
  | .flash => [0]
  | .ram => [1]
  | .screen => [2]

def putRun : RunOption → Bytes
  | .dontRun => [0]
  | .runNow => [1]
  | .runAndShow => [2]

def putChecks (c : Checks) : Bytes := putBool c.ack ++ putBool c.len ++ beBytes 2 c.expectedLen
def putTable (t : TableRef) : Bytes := beBytes 2 (t.width - Config.crcWidthMin) ++ beBytes 8 t.poly

def putEvent : ChanEvent → Bytes
  | .byte b => [0, b]
  | .timeout => [1, 0]
  | .fail => [2, 0]

def putPacket (p : Packet) : Bytes := [p.cmd] ++ beBytes 1 p.hlen ++ putBytes p.raw

def putInit (a : InitArgs) : Bytes :=
  putBytes a.name ++ putFunction a.function ++ putTarget a.target ++ beBytes 4 a.volume ++ beBytes 4 a.length ++
    beBytes 4 a.address ++ beBytes 4 a.crc.toNat ++ putBool a.overwrite ++ putBytes a.typeTag ++ beBytes 4 a.timestamp ++
    beBytes 4 a.version

def putUpload (a : UploadArgs) : Bytes :=
  putBytes a.name ++ putBytes a.payload ++ putTarget a.target ++ beBytes 4 a.volume ++ beBytes 4 a.address ++
    putBool a.overwrite ++ putBytes a.typeTag ++ beBytes 4 a.timestamp ++ beBytes 4 a.version ++ putRun a.run ++
    beBytes 2 (a.chunk - 1)

def putDownload (a : DownloadArgs) : Bytes :=
  putBytes a.name ++ beBytes 4 a.length ++ putTarget a.target ++ beBytes 4 a.volume ++ beBytes 4 a.address ++
    putBool a.overwrite ++ putBytes a.typeTag ++ beBytes 4 a.timestamp ++ beBytes 4 a.version ++ putChecks a.checks ++
    beBytes 2 (a.chunk - 1)

def putErr : Err → Bytes
  | .transport .shortRead => [0]
  | .transport .channelFailure => [1]
  | .frameSyncTimeout => [2]
  | .checksumMismatch => [3]
  | .deviceRejected c => [4, c.byte]
  | .unexpectedAck none => [5]
  | .unexpectedAck (some b) => [6, b]
  | .unexpectedLength => [7]
  | .unexpectedCommand b => [8, b]
  | .unexpectedSubCommand b => [9, b]
  | .lengthOverflow n => [10] ++ beBytes 4 n
  | .invalidWidth n => [11] ++ beBytes 4 n
  | .invalidTopic t => [12] ++ putBytes t
  | .cancelled => [13]
  | .busy => [14]

/-- A list after its 2-byte length. -/
def putList {α : Type} (w : α → Bytes) (as : List α) : Bytes := beBytes 2 as.length ++ as.flatMap w

def putRetryable : Retryable → Bytes
  | .classify => [0]
  | .these kinds errs => [1] ++ putList (fun k => [k.number]) kinds ++ putList putErr errs

def putPolicy (r : RetryPolicy) : Bytes := beBytes 1 (r.max - 1) ++ putRetryable r.retryable

def putBoot : BootOp → Bytes
  | .handshake => [0]
  | .erase .all => [1]
  | .erase (.pages numbers) => [2] ++ putList (beBytes 4) numbers
  | .programWrite a d => [3] ++ beBytes 4 a ++ beBytes 2 d.length ++ d
  | .jump a => [4] ++ beBytes 4 a

def putHostOp : HostOp → Bytes
  | .xchg sub payload c => [0, sub] ++ putBytes payload ++ putChecks c
  | .init a => [1] ++ putInit a
  | .write a d => [2] ++ beBytes 4 a ++ putBytes d
  | .read a n c => [3] ++ beBytes 4 a ++ beBytes 4 n ++ putChecks c
  | .complete r => [4] ++ putRun r
  | .upload a => [5] ++ putUpload a
  | .download a => [6] ++ putDownload a
  | .command code payload c => [7, code] ++ putBytes payload ++ putChecks c
  | .status payload c => [8] ++ putBytes payload ++ putChecks c
  | .boot op => [9] ++ putBoot op

/-- An operation: space 0, the selector, the operands. -/
def putOp (selector : Byte) (operands : Bytes) : Bytes := [0, selector] ++ operands

/-- A sub-command row: space 10, the sub-command byte, the operands of its exchange. -/
def putSub (sub : Byte) (payload : Bytes) (c : Checks) : Bytes := [10, sub] ++ putBytes payload ++ putChecks c

/-- The bytes of an instruction at the port. -/
def encode (p : Params) : Instr → Bytes
  | .crcBuild w P => putOp 0 (beBytes 2 w ++ beBytes 8 P)
  | .crcUpd w t acc b => putOp 1 (beBytes 2 (w - Config.crcWidthMin) ++ putTable t ++ beBytes 8 acc ++ [b])
  | .crcCompute w t bs init => putOp 2 (beBytes 2 (w - Config.crcWidthMin) ++ putTable t ++ beBytes 8 init ++ putBytes bs)
  | .crc16Compute bs init => putOp 3 (beBytes 2 init.toNat ++ putBytes bs)
  | .crc32Compute bs init => putOp 4 (beBytes 4 init.toNat ++ putBytes bs)
  | .spTx cmd payload => putOp 5 ([cmd] ++ putBytes payload)
  | .spRx => putOp 6 []
  | .spStep e => putOp 7 (putEvent e)
  | .extLenEnc n => putOp 8 (beBytes 4 n)
  | .extLenDec bs => putOp 9 (putBytes bs)
  | .extTx sub payload => putOp 10 ([sub] ++ putBytes payload)
  | .extDecode pk sub c => putOp 11 (putPacket pk ++ [sub] ++ putChecks c)
  | .extRx sub c => putOp 12 ([sub] ++ putChecks c)
  | .ackDecode b => putOp 13 [b]
  | .cobsDecode bs => putOp 14 (putBytes bs)
  | .cobsEncode bs => putOp 15 (putBytes bs)
  | .muxSub t => putOp 16 (putBytes t)
  | .muxUnsub t => putOp 17 (putBytes t)
  | .muxPromisc v => putOp 18 (putBool v)
  | .muxRead => putOp 19 []
  | .muxWrite bs => putOp 20 (putBytes bs)
  | .muxCancel => putOp 21 []
  | .extXchg sub payload c => putOp 22 ([sub] ++ putBytes payload ++ putChecks c)
  | .ftInit a => putOp 23 (putInit a)
  | .ftWrite a d => putOp 24 (beBytes 4 a ++ putBytes d)
  | .ftRead a n c => putOp 25 (beBytes 4 a ++ beBytes 4 n ++ putChecks c)
  | .ftComplete r => putOp 26 (putRun r)
  | .ftUpload a => putOp 27 (putUpload a)
  | .ftDownload a => putOp 28 (putDownload a)
  | .retry op policy => putOp 29 (putPolicy policy ++ putHostOp op)
  | .classify e => putOp 30 (putErr e)
  | .fSptxHeader cmd payload => [1] ++ Config.spTxHeader ++ [cmd] ++ putBytes payload
  | .fSprxShort cmd payload => [2, Config.sync0, Config.sync1, cmd, BitVec.ofNat 8 payload.length] ++ payload
  | .fSprxLong payload =>
    [2, Config.sync0, Config.sync1, Config.extCmd, 0x80 ||| BitVec.ofNat 8 (payload.length >>> 8),
      BitVec.ofNat 8 payload.length] ++ payload
  | .fLenShort l => [3, l.setWidth 8]
  | .fLenLong l => [3, 0x80 ||| (l >>> 8).setWidth 8, l.setWidth 8]
  | .fExtTx sub payload => [4] ++ Config.spTxHeader ++ [Config.extCmd, sub] ++ putBytes payload
  | .fExtRx sub payload => [4, Config.sync0, Config.sync1, Config.extCmd, sub] ++ putBytes payload
  | .fMuxDelim => [5, Config.muxDelim]
  | .fMuxFrame t payload => [6] ++ t.bytes ++ putBytes payload
  | .fCobsBlock data => [7, BitVec.ofNat 8 (data.length + 1)] ++ data
  | .cmdExt => [8, Config.extCmd]
  | .ack => [9, p.ackByte]
  | .subFtInit payload c => putSub 0x11 payload c
  | .subFtComplete payload c => putSub 0x12 payload c
  | .subFtWrite payload c => putSub 0x13 payload c
  | .subFtRead payload c => putSub 0x14 payload c
  | .subFtSetLink payload c => putSub 0x15 payload c
  | .subDirCount payload c => putSub 0x16 payload c
  | .subDirEntry payload c => putSub 0x17 payload c
  | .subExecFile payload c => putSub 0x18 payload c
  | .subFileMetaGet payload c => putSub 0x19 payload c
  | .subFileMetaSet payload c => putSub 0x1A payload c
  | .subFileErase payload c => putSub 0x1B payload c
  | .subSlotGet payload c => putSub 0x1C payload c
  | .subSysStatus payload c => putSub 0x22 payload c
  | .subScreenCapInit payload c => putSub 0x28 payload c
  | .subOther sub payload c => putSub sub payload c
  | .nackGeneral => [9, 0xFF]
  | .nackCrcError => [9, 0xCE]
  | .nackPayloadTooSmall => [9, 0xD0]
  | .nackRequestTooLarge => [9, 0xD1]
  | .nackProgramCrcError => [9, 0xD2]
  | .nackProgramFileError => [9, 0xD3]
  | .nackUninitializedTransfer => [9, 0xD4]
  | .nackInvalidInitForFunction => [9, 0xD5]
  | .nackDataNotMultipleOf4 => [9, 0xD6]
  | .nackAddressMismatch => [9, 0xD7]
  | .nackLengthMismatch => [9, 0xD8]
  | .nackDirectoryEntryMissing => [9, 0xD9]
  | .nackMaxFilesReached => [9, 0xDA]
  | .nackFileExists => [9, 0xDB]
  | .nackOther b => [9, b]

/-! The rows of opcode_table.json as words. -/

/-- The format space in which a word of the opcode table is read. Rows of different formats share words; the space is the
one of the row with the most fixed bits, except that a byte below 0x20 is an operation's selector. DESIGN CHOICE, log 2. -/
def tableSpace (nbits w : Nat) : Byte :=
  if nbits ≤ 8 then
    if w < 31 then 0
    else if w = Config.extCmd.toNat then 8
    else if w = Params.default.ackByte.toNat ∨ (nackOfByte (BitVec.ofNat 8 w)).isSome then 9
    else if namedSubs.contains (BitVec.ofNat 8 w) then 10
    else if w % 32 ≠ 31 then 0
    else if w < 0x80 then 3
    else 9
  else if nbits ≤ 16 then 3
  else if nbits ≤ 24 then 4
  else if nbits ≤ 32 then if w / 2 ^ 16 = 0xAA55 then 2 else 6
  else if nbits ≤ 40 then
    if w / 2 ^ 8 = 0xC936B847 then 1 else if w / 2 ^ 16 = 0xAA5556 then 2 else 6
  else 4

/-- The bytes of a word of the opcode table, as the port holds them: the table writes the first wire byte most
significant. -/
def tableBytes (nbits w : Nat) : Bytes := tableSpace nbits w :: beBytes ((nbits + 7) / 8) w

/-- The bytes of a word with the zero bytes above it, as many as the longest row's operands can ask for. -/
def tableWordBytes (nbits w : Nat) : Bytes := tableBytes nbits w ++ List.replicate 32768 0

/-- The instruction the decoder reads from a word of the opcode table, every bit above it zero. -/
def decodeTableWord (nbits w : Nat) : Option Instr :=
  match decode Params.default (tableWordBytes nbits w) with
  | .ok (i, _) => some i
  | .error _ => none

end Sys2Proof
end

