-- ==== Sys2Proof/Machine/State.lean ====
section
/-! DEFINITION. The state of the machine: the block (10_state R20), the operations in flight, the channel (10_state R33),
the host agent (10_state R34), and the model's own fields. Plain data. -/

namespace Sys2Proof.Machine

/-- `sp.st`, the framer's state register (10_state R22). -/
inductive SpState where
  | idle | hunt0 | hunt1 | cmd | len0 | len1 | payload
deriving DecidableEq, Repr

/-- The receive framer's registers and buffer (10_state R23, R24). -/
structure Framer where
  st : SpState
  cmd : Byte
  len : BitVec 15
  cnt : BitVec 15
  hlen : BitVec 3
  raw : Bytes
deriving DecidableEq, Repr

/-- The stream unit's registers (10_state R28, R29). `subs` is a set, kept strictly rising. -/
structure Mux where
  buf : Bytes
  subs : List Topic
  promisc : Bool
  cancel : Bool
deriving DecidableEq, Repr

/-- What a receiving operation meets in the channel: what `ChanRead()` gives, or the event `cancel` "in the place of a byte"
(43_mux_stream R168, R174). -/
inductive Event where
  | chan (e : ChanEvent)
  | cancel
deriving DecidableEq, Repr

/-- What the channel answers to a write (44_host_protocols R186): accepted, or failed after `sent` bytes went out. -/
inductive WriteAnswer where
  | accepted
  | failed (sent : Nat)
deriving DecidableEq, Repr

/-- The byte channel, the environment of the block (10_state R33, 20_memory R45). -/
structure Channel where
  /-- the receive stream: what the next `ChanRead()`s give, in order -/
  rx : List Event
  /-- the transmit stream: every byte handed over, in order -/
  tx : Bytes
  /-- what the channel will answer to the next writes; once empty, every write is accepted (log 15) -/
  writes : List WriteAnswer
  /-- who takes the next event when two receivers wait: `true` is the stream reader; once empty, the framer (log 16) -/
  arb : List Bool
  /-- the channel has not been destroyed (10_state R36) -/
  alive : Bool
deriving DecidableEq, Repr

/-- What the host agent keeps of a File Transfer Session (44_host_protocols R187). -/
structure Session where
  maxPacketSize : Nat
  fileSize : Nat
  deviceCrc : Nat
  address : Nat
  length : Nat
  crc : BitVec 32
deriving DecidableEq, Repr

/-- The legacy device's states (44_host_protocols R200). -/
inductive LegacyState where
  | unknown | negotiated | erased | programming | jumped
deriving DecidableEq, Repr

/-- The legacy device as the host knows it (44_host_protocols R200, R201). The protocol's bytes are not in the source, so
what the host sends stands as the operations themselves. -/
structure Legacy where
  st : LegacyState
  /-- the address of the last program-write that succeeded: "addresses increasing" (44_host_protocols R200) -/
  last : Option Nat
  /-- the commands handed to the device, oldest first (log 36) -/
  sent : List BootOp
  /-- what the device will answer to the next commands; once empty, `Config.bootAnswer` (log 36) -/
  answers : List BootAnswer
  /-- how many answers were taken from `Config.bootAnswer` (log 36) -/
  asked : Nat
deriving DecidableEq, Repr

/-- The two kinds of device (44_host_protocols R202). -/
inductive DeviceKind where
  | primary | legacy
deriving DecidableEq, Repr

/-- What is still to be done with the packet a receiving operation waits for, innermost first (log 10). -/
inductive Frame where
  /-- `EXT.DECODE` of the packet (42_extended_packet R125) -/
  | decode (sub : Byte) (checks : Checks)
  /-- the rest of `FT.INIT` (44_host_protocols R188) -/
  | init (length address : Nat) (crc : BitVec 32)
  /-- the rest of `FT.WRITE` of `n` bytes (R189) -/
  | write (address n : Nat)
  /-- the rest of `FT.READ` (R190) -/
  | read (address n : Nat)
  /-- the rest of `FT.COMPLETE` (R191) -/
  | complete
  /-- `FT.UPLOAD` with `next` the next chunk (R204) -/
  | upload (args : UploadArgs) (next : Nat)
  /-- `FT.DOWNLOAD` with `next` the next chunk and what came so far (R204) -/
  | download (args : DownloadArgs) (next : Nat) (out : Bytes)
  /-- `FT.DOWNLOAD` after its `FT.COMPLETE` (R204) -/
  | downloaded (out : Bytes)
  /-- `RETRY` (R196); the number of the attempt stands in `State.attempt` -/
  | retry (op : HostOp) (policy : RetryPolicy)
  /-- the status query keeps its reply (R198) -/
  | keepStatus
deriving DecidableEq, Repr

/-- What an operation returns. -/
inductive Value where
  /-- an operation without a result -/
  | unit
  /-- a table of `CRC.BUILD` (40_crc R86) -/
  | table (width : Nat) (entries : List Nat)
  /-- a checksum of `width` bits -/
  | checksum (width value : Nat)
  /-- a byte sequence: a wire, a payload, decoded bytes -/
  | bytes (bs : Bytes)
  /-- a packet record (41_simple_packet R110) -/
  | packet (p : Packet)
  /-- the framer's next state (41_simple_packet R118) -/
  | framer (st : SpState)
  /-- a length and the bytes its field took (42_extended_packet R122) -/
  | length (len k : Nat)
  /-- `Ack` (42_extended_packet R126) -/
  | ack
  /-- the outcome `Malformed`, which is no error (43_mux_stream R162) -/
  | malformed
  /-- a delivered stream frame (43_mux_stream R168) -/
  | frame (topic : Topic) (payload : Bytes)
  /-- the initialize reply (44_host_protocols R188) -/
  | session (maxPacketSize fileSize deviceCrc : Nat)
  /-- the answer of `CLASSIFY` (44_host_protocols R197) -/
  | retried (v : Bool)
deriving DecidableEq, Repr

/-- How an operation ended (00_scope R13): a result, or an error (a refusal is one). -/
inductive Res where
  | ok (v : Value)
  | error (e : Err)
deriving DecidableEq, Repr

/-- Who called the operation: the owning task, the stream's reader task, its writer task (00_scope R7, 43_mux_stream R176). -/
inductive Caller where
  | owner | reader | writer
deriving DecidableEq, Repr

/-- One outcome as its caller gets it (00_scope R13). -/
structure Report where
  caller : Caller
  res : Res
deriving DecidableEq, Repr

/-- The whole state. -/
structure State where
  /-- working register of `CRC16` (10_state R21) -/
  acc16 : BitVec 16
  /-- working register of `CRC32` (10_state R21) -/
  acc32 : BitVec 32
  sp : Framer
  mux : Mux
  /-- the operation that waits for the framer, if one does (00_scope R13) -/
  task : Option (List Frame)
  /-- a `MUX.READ` waits (43_mux_stream R168) -/
  reading : Bool
  chan : Channel
  /-- the File Transfer Session; `none` is `ft.active = 0` (44_host_protocols R187) -/
  ft : Option Session
  /-- the status snapshot, once fetched (44_host_protocols R198) -/
  snapshot : Option Bytes
  /-- the primary device is in `Querying`: outside a session an `EXT.XCHG` went out, and neither its reply nor its error has come
  (10_state R34, 44_host_protocols R198; log 31) -/
  querying : Bool
  /-- the kind of the one device on this channel (44_host_protocols R202); no step writes it (log 37) -/
  device : DeviceKind
  /-- the legacy device (44_host_protocols R200) -/
  legacy : Legacy
  /-- the retry wrapper's attempt counter: the attempt that waits, or that waited last (10_state R34, 44_host_protocols R196) -/
  attempt : Nat
  /-- the host has asked for the block's reset, which the next step carries out (70_reset_and_hazards R261; log 38) -/
  resetAsked : Bool
  /-- the operation port: invocations and arrivals still to come (log 1, 3) -/
  port : Bytes
  /-- the outcomes handed to the callers, oldest first (log 19) -/
  reports : List Report
  /-- the parameters a model takes as an argument (00_scope R9; log 6) -/
  params : Params
deriving DecidableEq, Repr

/-- Why the machine stops. -/
inductive Fault where
  /-- raised by `step` when the channel is destroyed: "an operation invoked on a destroyed channel is outside the rules"
  (70_reset_and_hazards R265, 93 U4). Safe: nothing can be proved of what happens then. Log 17. -/
  | channelDestroyed
  /-- raised by `SP.STEP` in `IDLE`: "`SP.STEP` is not defined in `IDLE` (no event is consumed there)" (41_simple_packet
  R118). Safe. Log 14. -/
  | stepInIdle
deriving DecidableEq, Repr

/-- Why an instruction is turned away without a meaning. -/
inductive Refusal where
  /-- raised by `exec` for an instruction without a meaning. Safe. -/
  | notModelled (mnemonic : String)
  /-- raised by `step` when the port's bytes encode no instruction. Safe. Log 1. -/
  | undecodable (e : DecodeError)
  /-- raised by `MUX.READ` while another one waits: "two concurrent ones on one instance are outside the rules"
  (70_reset_and_hazards R263, 93 U3 `refuse`). Safe. Log 18. -/
  | concurrentRead
  /-- raised by `RETRY` with `max = 0`: "outside the rules" (44_host_protocols R196, 93 U6 `refuse`). Safe; the decoder never
  gives it. Log 23. -/
  | retryMaxZero
  /-- raised by `FT.UPLOAD` and `FT.DOWNLOAD` (also inside `RETRY`) with a chunk size of 0: the rule has `0 < M`
  (44_host_protocols R193). Safe; the decoder never gives it. Log 23. -/
  | chunkSizeZero
  /-- raised by `CRC.UPD` and `CRC.COMPUTE` at a width, or with a table, below 8 bits: they take a table "that a finished
  `CRC.BUILD` produced" (70_reset_and_hazards R266, 40_crc R94). Safe; the decoder never gives it. Log 23. -/
  | tableNeverBuilt
  /-- raised by the rows of wire formats for a payload that the format's own length field cannot announce
  (30_encoding R65, R73, 42_extended_packet R127). Safe; the decoder never gives it. Log 23. -/
  | unframable
  /-- raised by an operation of a device of the kind that lacks the capability: "outside a device's set", "a caller error that
  the document does not name" (44_host_protocols R202, 93 U9 `refuse`). Safe. Log 37. -/
  | outsideCapabilities
  /-- raised by `RETRY` of a program-write of more than `BOOT_WRITE_MAX` bytes (44_host_protocols R200, 00_scope R9). Safe; the
  decoder never gives it. Log 23. -/
  | bootWriteTooLong
deriving DecidableEq, Repr

/-- The framer at reset (10_state R35); `cmd`, `len`, `cnt` and `hlen` are unspecified there: DESIGN CHOICE, log 4. -/
def Framer.reset : Framer where
  st := .idle
  cmd := 0
  len := 0
  cnt := 0
  hlen := 0
  raw := []

/-- The stream unit at reset (10_state R35). -/
def Mux.reset : Mux where
  buf := []
  subs := []
  promisc := false
  cancel := false

/-- The channel as the model has it at reset. DESIGN CHOICE, log 5. -/
def Channel.reset : Channel where
  rx := []
  tx := []
  writes := []
  arb := []
  alive := true

/-- The legacy device at creation: "nothing is known of the device" (44_host_protocols R200; log 5, 36). -/
def Legacy.reset : Legacy where
  st := .unknown
  last := none
  sent := []
  answers := []
  asked := 0

/-- The machine right after reset (10_state R35, 70_reset_and_hazards R261; the environment's, the host agent's and the
model's own fields: log 5). -/
def State.reset : State where
  acc16 := 0
  acc32 := 0
  sp := Framer.reset
  mux := Mux.reset
  task := none
  reading := false
  chan := Channel.reset
  ft := none
  snapshot := none
  querying := false
  device := .primary
  legacy := Legacy.reset
  attempt := 0
  resetAsked := false
  port := []
  reports := []
  params := Params.default

end Sys2Proof.Machine
end

