-- ==== Sys2Proof/Machine/DeviceUnit.lean ====
section
/-! DEFINITION. The two kinds of device and their capabilities, and the legacy device's operations as functions
(44_host_protocols R200 to R202). -/

namespace Sys2Proof.Machine

/-- The capabilities a caller dispatches on (44_host_protocols R202). -/
inductive Capability where
  | status | fileIo | execute | erase | programWrite | jump
deriving DecidableEq, Repr

/-- The capability set of a kind (44_host_protocols R202). -/
def DeviceKind.capabilities : DeviceKind → List Capability
  | .primary => [.status, .fileIo, .execute]
  | .legacy => [.erase, .programWrite, .jump]

/-- Whether a device of this kind has the capability that an operation needs, if it needs one (44_host_protocols R202). -/
def DeviceKind.serves (k : DeviceKind) : Option Capability → Bool
  | none => true
  | some c => k.capabilities.contains c

/-- The capability behind a named sub-command (42_extended_packet R131 to R144). The screen capture's data is read through a
file transfer (R144), so it counts as file-io. DESIGN CHOICE, log 37. -/
def subCapability (code : Byte) : Option Capability :=
  if code = 0x22 then some .status
  else if code = 0x18 then some .execute
  else if namedSubs.contains code then some .fileIo
  else none

/-- The capability behind a legacy operation; the handshake, which the set does not name, comes before an erase
(44_host_protocols R200). DESIGN CHOICE, log 37. -/
def bootCapability : BootOp → Capability
  | .handshake => .erase
  | .erase _ => .erase
  | .programWrite _ _ => .programWrite
  | .jump _ => .jump

/-- The capability an operation needs (44_host_protocols R202). The plain exchange is the codec's sequencer
(42_extended_packet R129) and needs none. DESIGN CHOICE, log 37. -/
def opCapability : HostOp → Option Capability
  | .xchg .. => none
  | .init _ => some .fileIo
  | .write _ _ => some .fileIo
  | .read .. => some .fileIo
  | .complete _ => some .fileIo
  | .upload _ => some .fileIo
  | .download _ => some .fileIo
  | .command code _ _ => subCapability code
  | .status _ _ => some .status
  | .boot op => some (bootCapability op)

/-- The chain `Unknown → Negotiated → Erased → Programming → Jumped` (44_host_protocols R200): where an operation that
succeeds leads. A handshake, an erase and a program-write may be repeated in the state they lead to; `none`: the chain has no
such arrow. Log 26. -/
def LegacyState.after : LegacyState → BootOp → Option LegacyState
  | .unknown, .handshake => some .negotiated
  | .negotiated, .handshake => some .negotiated
  | .negotiated, .erase _ => some .erased
  | .erased, .erase _ => some .erased
  | .erased, .programWrite _ _ => some .programming
  | .programming, .programWrite _ _ => some .programming
  | .programming, .jump _ => some .jumped
  | _, _ => none

/-- The place of a state in the chain (44_host_protocols R200). -/
def LegacyState.rank : LegacyState → Nat
  | .unknown => 0
  | .negotiated => 1
  | .erased => 2
  | .programming => 3
  | .jumped => 4

/-- The state that an operation enters: the column "entered by" of 44_host_protocols R200. -/
def enteredBy : BootOp → LegacyState
  | .handshake => .negotiated
  | .erase _ => .erased
  | .programWrite _ _ => .programming
  | .jump _ => .jumped

/-- "A loop of writes of at most `BOOT_WRITE_MAX = 256` bytes each" (44_host_protocols R200). -/
def bootShort : BootOp → Bool
  | .programWrite _ data => decide (data.length ≤ Config.bootWriteMax)
  | _ => true

/-- "Addresses increasing" (44_host_protocols R200): a program-write's address is above that of the last one that succeeded. -/
def Legacy.increasing (l : Legacy) : BootOp → Bool
  | .programWrite address _ => l.last.all fun a => decide (a < address)
  | _ => true

/-- The operation is in order: the chain has an arrow for it, and its address increases (44_host_protocols R200). -/
def Legacy.inOrder (l : Legacy) (op : BootOp) : Bool := (l.st.after op).isSome && l.increasing op

/-- An answer that nothing foretells: the free value (log 36). -/
def Legacy.freeAnswer (l : Legacy) : BootAnswer × Legacy :=
  (Config.bootAnswer l.asked, { l with asked := l.asked + 1 })

/-- The device's answer to a command: the one foretold, or the free value. Of a command out of order the spec states no result
(44_host_protocols R200, 70_reset_and_hazards R262), so that is the free value always. DESIGN CHOICE, log 26, 36. -/
def Legacy.answer (op : BootOp) (l : Legacy) : BootAnswer × Legacy :=
  match l.answers with
  | a :: as => if l.inOrder op then (a, { l with answers := as }) else l.freeAnswer
  | [] => l.freeAnswer

/-- One command to the device and its answer. -/
def Legacy.command (op : BootOp) (l : Legacy) : BootAnswer × Legacy := Legacy.answer op { l with sent := l.sent ++ [op] }

/-- The handshake, "with a small bounded retry loop" (44_host_protocols R200): tried again at most `n` times after the first
failure. -/
def Legacy.handshake : (n : Nat) → Legacy → BootAnswer × Legacy
  | 0, l => l.command .handshake
  | n + 1, l =>
    match l.command .handshake with
    | (.done, l') => (.done, l')
    | (_, l') => Legacy.handshake n l'

/-- The state after an operation that succeeded (44_host_protocols R200): the one that the chain's arrow leads to. Without an
arrow the spec states none: the host's record stays or goes on to the state that the operation enters, a free value, and never
back. DESIGN CHOICE, log 26. -/
def Legacy.next (op : BootOp) (l : Legacy) : LegacyState :=
  match l.st.after op with
  | some st => st
  | none => if l.st.rank < (enteredBy op).rank ∧ Config.bootOffChain l.asked then enteredBy op else l.st

/-- The address of the last program-write, after an operation that succeeded (44_host_protocols R200). -/
def Legacy.nextLast (op : BootOp) (l : Legacy) : Option Nat :=
  match op with
  | .programWrite address _ => some address
  | _ => l.last

/-- The record after an operation that succeeded (44_host_protocols R200). -/
def Legacy.advance (op : BootOp) (l : Legacy) : Legacy := { l with st := l.next op, last := l.nextLast op }

/-- The error with which an operation ends on its last answer, if it ends with one. A jump "does not itself wait for a
response", so a missing acknowledgment is none there (44_host_protocols R201, 90_conflicts C13); elsewhere silence is the bare
time-out (60_exceptions R212). DESIGN CHOICE, log 36. Every error of the taxonomy reaches the caller (R242). -/
def bootError : BootAnswer → BootOp → Option Err
  | .done, _ => none
  | .silent, .jump _ => none
  | .silent, _ => some .frameSyncTimeout
  | .failed e, _ => some e

/-- What an operation sends and what it is answered at last (44_host_protocols R200): one command, the handshake up to its
bound. -/
def Legacy.ask (extraTries : Nat) (op : BootOp) (l : Legacy) : BootAnswer × Legacy :=
  match op with
  | .handshake => l.handshake extraTries
  | op => l.command op

/-- An operation of the legacy device (44_host_protocols R200, R201): success moves the chain on; an error leaves it and goes to
the caller unchanged (60_exceptions R242). -/
def Legacy.perform (extraTries : Nat) (op : BootOp) (l : Legacy) : Res × Legacy :=
  let r := l.ask extraTries op
  match bootError r.1 op with
  | none => (.ok .unit, r.2.advance op)
  | some e => (.error e, r.2)

/-- The program-writes that put an image at an address: "loop of ≤256-byte writes", addresses increasing (44_host_protocols
R200). The spec does not say how an image is cut; here each write but the last has exactly 256 bytes, and each starts where the
one before ends. DESIGN CHOICE, log 26. -/
def programWrites (address : Nat) (image : Bytes) : List BootOp :=
  (List.range ((image.length + (Config.bootWriteMax - 1)) / Config.bootWriteMax)).map fun i =>
    .programWrite (address + i * Config.bootWriteMax) ((image.drop (i * Config.bootWriteMax)).take Config.bootWriteMax)

end Sys2Proof.Machine
end

