-- ==== Sys2Proof/Machine/CrcUnit.lean ====
section
/-! DEFINITION. The CRC engine (40_crc): table construction, the per-byte step, the computation, and the two instances. -/

namespace Sys2Proof.Machine

/-- One of the eight shift steps of 40_crc R86. -/
def crcShift {W : Nat} (P r : BitVec W) : BitVec W :=
  if r.msb then (r <<< 1) ^^^ P else r <<< 1

/-- Entry `i` of the table of width `W` and polynomial `P` (40_crc R86). -/
def crcEntry {W : Nat} (P : BitVec W) (i : Byte) : BitVec W :=
  Nat.repeat (crcShift P) 8 (i.setWidth W <<< (W - 8))

/-- The 256-entry table of width `W` and polynomial `P` (40_crc R86). -/
def crcTable {W : Nat} (P : BitVec W) : List (BitVec W) :=
  (List.range 256).map fun i => crcEntry P (BitVec.ofNat 8 i)

/-- `CRC.BUILD(W, P)`; the polynomial is taken modulo `2^W` (40_crc R86, R94, R98). -/
def crcBuild (W P : Nat) : Except Err (List (BitVec W)) :=
  if W < Config.crcWidthMin then .error (.invalidWidth W) else .ok (crcTable (BitVec.ofNat W P))

/-- `CRC.UPD(W, T, acc, b)` (40_crc R88). -/
def crcUpd {W : Nat} (T : List (BitVec W)) (acc : BitVec W) (b : Byte) : BitVec W :=
  let idx : Byte := (acc >>> (W - 8)).setWidth 8 ^^^ b
  (acc <<< 8) ^^^ T.getD idx.toNat 0

/-- `CRC.COMPUTE(W, T, bytes, initial)` (40_crc R89). -/
def crcCompute {W : Nat} (T : List (BitVec W)) (bytes : Bytes) (initial : BitVec W) : BitVec W :=
  bytes.foldl (crcUpd T) initial

/-- `T16`: the constant table of `CRC16` (40_crc R90, 92 D4). -/
def T16 : List (BitVec 16) := crcTable (BitVec.ofNat 16 Config.crc16Poly)

/-- `T32`: the constant table of `CRC32` (40_crc R91, 92 D4). -/
def T32 : List (BitVec 32) := crcTable (BitVec.ofNat 32 Config.crc32Poly)

/-- `CRC16.COMPUTE(bytes, initial)` (40_crc R90). -/
def crc16 (bytes : Bytes) (initial : BitVec 16) : BitVec 16 := crcCompute T16 bytes initial

/-- `CRC32.COMPUTE(bytes, initial)` (40_crc R91). -/
def crc32 (bytes : Bytes) (initial : BitVec 32) : BitVec 32 := crcCompute T32 bytes initial

/-- The bit-serial form of the computation (40_crc R96), which the table form is held to. -/
def crcBitwise {W : Nat} (P : BitVec W) (bytes : Bytes) (initial : BitVec W) : BitVec W :=
  bytes.foldl (fun (acc : BitVec W) (b : Byte) => Nat.repeat (crcShift P) 8 (acc ^^^ b.setWidth W <<< (W - 8))) initial

/-- The checksum over `bytes` from `acc` at width `w` with table `t`: the engine's when the table was built for that
width, and otherwise a value about which nothing is promised (93 U1; log 9). The spec has `acc` and `initial` as `w`-bit
values (10_state R31, 40_crc R89) and does not say what a larger one does; here it is taken modulo `2^w`. No step of
`CRC.BUILD` is asked for before, though 40_crc R94 and 70_reset_and_hazards R266 have the table of a finished one: a table's
name stands for the table that its build gives. DESIGN CHOICE, log 9. -/
def crcWith (w : Nat) (t : TableRef) (bytes : Bytes) (acc : Nat) : BitVec w :=
  if t.width = w then crcCompute (crcTable (BitVec.ofNat w t.poly)) bytes (BitVec.ofNat w acc)
  else Config.mismatchedCrc w t acc bytes

end Sys2Proof.Machine
end

