-- ==== Sys2Proof/Machine/ExtUnit.lean ====
section
/-! DEFINITION. The encoders and decoders of the simple and the extended packet as functions (41_simple_packet R101,
42_extended_packet R123 to R127). They hold no state (10_state R25). -/

namespace Sys2Proof.Machine

/-- `SP.TX(cmd, payload)` (41_simple_packet R101). -/
def spTx (cmd : Byte) (payload : Bytes) : Bytes := Config.spTxHeader ++ [cmd] ++ payload

/-- A packet's bytes with the CRC-16 trailer over all of them (30_encoding R70). -/
def withTrailer (bytes : Bytes) : Bytes := bytes ++ trailer (crc16 bytes 0)

/-- `EXT.TX(sub, payload)` (42_extended_packet R123). -/
def extTx (sub : Byte) (payload : Bytes) : Except Err Bytes :=
  match extLenEnc payload.length with
  | .error e => .error e
  | .ok lenEnc => .ok (withTrailer (spTx Config.extCmd [] ++ ([sub] ++ lenEnc ++ payload)))

/-- `ACK.DECODE(b)` (42_extended_packet R126): nothing on `Ack`. -/
def ackDecode (p : Params) (b : Byte) : Except Err Unit :=
  match nackOfByte b with
  | some code => .error (.deviceRejected code)
  | none => if b = p.ackByte then .ok () else .error (.unexpectedAck (some b))

/-- The derived predicate `crc_zero` of a received packet (10_state R30). -/
def crcZero (raw : Bytes) : Bool := crc16 raw 0 == 0

/-- The least body an extended packet can have (42_extended_packet R124). -/
def minBody (p : Params) : Nat := if p.innerLen then 4 else 3

/-- The payload inside an extended body, by its inner length field or, without one, by its extent (42_extended_packet R124,
second half of step b). -/
def extInner (p : Params) (B : Bytes) : Except Err Bytes :=
  if p.innerLen then
    match extLenDec (B.drop 1) with
    | .error e => .error e
    | .ok (len, k) =>
      if 1 + k + len + 2 ≠ B.length then .error .unexpectedLength
      else .ok ((B.drop (1 + k)).take len)
  else .ok ((B.drop 1).take (B.length - 3))

/-- The ACK check (42_extended_packet R124, step c). -/
def extAck (p : Params) (c : Checks) (body : Bytes) : Except Err Bytes :=
  if c.ack then
    match body with
    | [] => .error (.unexpectedAck none)
    | b :: rest =>
      match ackDecode p b with
      | .error e => .error e
      | .ok _ => .ok rest
  else .ok body

/-- The exact-length check (42_extended_packet R124, step d). -/
def extExact (c : Checks) (body : Bytes) : Except Err Bytes :=
  if c.len ∧ body.length ≠ c.expectedLen then .error .unexpectedLength else .ok body

/-- `EXT.DECODE(p, expected_sub, check_ack, check_len, expected_len)` (42_extended_packet R124): the steps in their order,
the first failure ends the operation. -/
def extDecode (p : Params) (pk : Packet) (sub : Byte) (c : Checks) : Except Err Bytes :=
  if pk.cmd ≠ Config.extCmd then .error (.unexpectedCommand pk.cmd)
  else if crcZero pk.raw = false then .error .checksumMismatch
  else if pk.payload.length < minBody p then .error .unexpectedLength
  else if pk.payload.headD 0 ≠ sub then .error (.unexpectedSubCommand (pk.payload.headD 0))
  else match extInner p pk.payload with
    | .error e => .error e
    | .ok body =>
      match extAck p c body with
      | .error e => .error e
      | .ok body => extExact c body

/-- The body of a reply up to its trailer (42_extended_packet R127). -/
def replyBody (p : Params) (sub : Byte) (payload : Bytes) : Except Err Bytes :=
  if p.innerLen then
    match extLenEnc payload.length with
    | .error e => .error e
    | .ok lenEnc => .ok ([sub] ++ lenEnc ++ payload)
  else .ok ([sub] ++ payload)

/-- `REPLY(sub, payload)`, the bytes a device sends (42_extended_packet R127, 30_encoding R69). -/
def extReply (p : Params) (sub : Byte) (payload : Bytes) : Except Err Bytes :=
  match replyBody p sub payload with
  | .error e => .error e
  | .ok body =>
    match extLenEnc (body.length + 2) with
    | .error e => .error e
    | .ok outer => .ok (withTrailer ([Config.sync0, Config.sync1, Config.extCmd] ++ outer ++ body))

/-- The packet record of a transmitted wire, read back (42_extended_packet R127: `loop`). -/
def loopRecord (w : Bytes) : Packet := ⟨w.getD 4 0, w.drop 5, w, 5⟩

/-- A received simple packet whose length field has one byte (30_encoding R65). -/
def sprxShort (cmd : Byte) (payload : Bytes) : Bytes :=
  [Config.sync0, Config.sync1, cmd, BitVec.ofNat 8 payload.length] ++ payload

/-- A received simple packet of the reserved command whose length field has two bytes (30_encoding R65). -/
def sprxLong (payload : Bytes) : Bytes :=
  [Config.sync0, Config.sync1, Config.extCmd, 0x80 ||| BitVec.ofNat 8 (payload.length >>> 8),
    BitVec.ofNat 8 payload.length] ++ payload

end Sys2Proof.Machine
end

