-- ==== Sys2Proof/Machine/FramerUnit.lean ====
section
/-! DEFINITION. `SP.STEP`: the receive framer's step on one event (41_simple_packet R104 to R112). -/

namespace Sys2Proof.Machine

/-- What the framer yields when it is done: a packet, or an error (41_simple_packet R110 to R112). -/
abbrev FramerOutcome := Option (Except Err Packet)

/-- The payload region of `sp.raw` (10_state R24). -/
def Framer.payload (f : Framer) : Bytes := (f.raw.drop f.hlen.toNat).take f.len.toNat

/-- The packet record of a completed receive (41_simple_packet R110). -/
def Framer.packet (f : Framer) : Packet := ⟨f.cmd, f.payload, f.raw, f.hlen.toNat⟩

/-- Completion (41_simple_packet R110). `cmd`, `len`, `cnt` and `hlen` keep their last values in `IDLE`, where they may have any
value (10_state R23, 93 U2). DESIGN CHOICE, log 4. -/
def Framer.complete (f : Framer) : Framer × FramerOutcome := ({ f with st := .idle }, some (.ok f.packet))

/-- An error ends the receive: `sp.st <- IDLE`, `sp.raw <- []` (41_simple_packet R111, R112). `cmd`, `len`, `cnt`
and `hlen` keep their last values in `IDLE`, where they may have any value (10_state R23, 93 U2). DESIGN CHOICE, log 4. -/
def Framer.abort (f : Framer) (e : Err) : Framer × FramerOutcome := ({ f with st := .idle, raw := [] }, some (.error e))

/-- After the length field: complete at once when it announces nothing, else wait for the payload (41_simple_packet R107,
R108). -/
def Framer.startPayload (f : Framer) : Framer × FramerOutcome :=
  if f.len = 0 then f.complete else ({ f with st := .payload }, none)

/-- `SP.STEP` on `byte(b)` (41_simple_packet R104 to R109). In `IDLE` no event is consumed (R118). The sync search leaves `cmd`,
`len`, `cnt` and `hlen` alone, which may have any value there (10_state R23, 93 U2). DESIGN CHOICE, log 4. -/
def Framer.onByte (f : Framer) (b : Byte) : Framer × FramerOutcome :=
  match f.st with
  | .idle => (f, none)
  | .hunt0 =>
    if b = Config.sync0 then ({ f with raw := [Config.sync0], st := .hunt1 }, none)
    else ({ f with raw := [], st := .hunt0 }, none)
  | .hunt1 =>
    if b = Config.sync1 then ({ f with raw := f.raw ++ [Config.sync1], st := .cmd }, none)
    else ({ f with raw := [], st := .hunt0 }, none)
  | .cmd => ({ f with cmd := b, raw := f.raw ++ [b], st := .len0 }, none)
  | .len0 =>
    if twoLengthBytes f.cmd b then ({ f with raw := f.raw ++ [b], len := lenHigh b, st := .len1 }, none)
    else Framer.startPayload { f with raw := f.raw ++ [b], len := b.setWidth 15, hlen := 4, cnt := 0 }
  | .len1 =>
    Framer.startPayload { f with raw := f.raw ++ [b], len := f.len ||| b.setWidth 15, hlen := 5, cnt := 0 }
  | .payload =>
    let f' := { f with raw := f.raw ++ [b], cnt := f.cnt + 1 }
    if f'.cnt = f'.len then f'.complete else (f', none)

/-- Whether the sync has not been found yet. -/
def SpState.hunting : SpState → Bool
  | .hunt0 => true
  | .hunt1 => true
  | _ => false

/-- `SP.STEP(e)` (41_simple_packet R118): the next framer state, and the outcome if there is one. -/
def Framer.step (f : Framer) (e : ChanEvent) : Framer × FramerOutcome :=
  if f.st = .idle then (f, none)
  else match e with
    | .byte b => f.onByte b
    | .timeout => f.abort (if f.st.hunting then .frameSyncTimeout else .transport .shortRead)
    | .fail => f.abort (.transport .channelFailure)

/-- Arming (41_simple_packet R103). `cmd`, `len`, `cnt` and `hlen` keep their last values in `HUNT0` and `HUNT1`, where they may
have any value (10_state R23, 93 U2). DESIGN CHOICE, log 4. -/
def Framer.arm (f : Framer) : Framer := { f with st := .hunt0, raw := [] }

end Sys2Proof.Machine
end

