-- ==== Sys2Proof/Machine/HostUnit.lean ====
section
/-! DEFINITION. The host agent's payload layouts, padding and chunking as functions (44_host_protocols R188 to R193). -/

namespace Sys2Proof.Machine

/-- The field values of one host payload. -/
structure Fields where
  int : List (IntField × Nat)
  blob : List (BlobField × Bytes)
deriving DecidableEq, Repr

/-- The value of an integer field; 0 for a field that the payload does not have. DESIGN CHOICE, log 7. -/
def fieldInt (f : Fields) (k : IntField) : Nat := ((f.int.find? fun e => e.1 == k).map (·.2)).getD 0

/-- The value of a byte-string field; empty for a field that the payload does not have. DESIGN CHOICE, log 7. -/
def fieldBlob (f : Fields) (k : BlobField) : Bytes := ((f.blob.find? fun e => e.1 == k).map (·.2)).getD []

/-- One piece of a layout as bytes; integers little-endian (20_memory R47). -/
def pieceBytes (f : Fields) : Piece → Bytes
  | .const bytes => bytes
  | .int k width => leBytes width (fieldInt f k)
  | .blob k => fieldBlob f k
  | .padded k width pad => ((fieldBlob f k) ++ List.replicate width pad).take width

/-- A payload laid out (44_host_protocols R188 to R191; log 7). -/
def layOut (pieces : List Piece) (f : Fields) : Bytes := pieces.flatMap (pieceBytes f)

/-- The numeric code of `function` (91 N16). -/
def functionCode (l : Layouts) : TransferFunction → Nat
  | .upload => l.uploadCode
  | .download => l.downloadCode

/-- The numeric code of `target` (91 N16). -/
def targetCode (l : Layouts) : TransferTarget → Nat
  | .flash => l.flashCode
  | .ram => l.ramCode
  | .screen => l.screenCode

/-- The numeric code of a run option (91 N15). -/
def runCode (l : Layouts) : RunOption → Nat
  | .dontRun => l.dontRunCode
  | .runNow => l.runNowCode
  | .runAndShow => l.runAndShowCode

/-- "Truncated with a warning if longer" (44_host_protocols R188, 92 D36). -/
def truncateName (name : Bytes) : Bytes := name.take Config.ftNameMax

/-- `INIT_LAYOUT` (44_host_protocols R188, 42_extended_packet R131). The flag `overwrite` is the integer 1 when set and 0 when
clear; the spec gives no value codes of the fields (91 N14). DESIGN CHOICE, log 7. -/
def initPayload (l : Layouts) (a : InitArgs) : Bytes :=
  layOut l.init
    { int := [(.function, functionCode l a.function), (.target, targetCode l a.target), (.volume, a.volume),
        (.length, a.length), (.address, a.address), (.crc, a.crc.toNat), (.overwrite, a.overwrite.toNat),
        (.timestamp, a.timestamp), (.version, a.version)]
      blob := [(.name, truncateName a.name), (.typeTag, a.typeTag)] }

/-- `pad` of 44_host_protocols R189: 0, 1, 2 or 3. -/
def padLength (n : Nat) : Nat := (Config.ftAlign - n % Config.ftAlign) % Config.ftAlign

/-- The chunk data, "padded to a 4-byte multiple" (44_host_protocols R189). -/
def padData (p : Params) (data : Bytes) : Bytes := data ++ List.replicate (padLength data.length) p.padByte

/-- `WRITE_LAYOUT` of an address and the padded data (44_host_protocols R189). -/
def writePayload (p : Params) (address : Nat) (data : Bytes) : Bytes :=
  layOut p.layouts.write { int := [(.address, address)], blob := [(.data, padData p data)] }

/-- `n4`, "rounded up to a multiple of 4 for the request" (44_host_protocols R190). -/
def roundUp (n : Nat) : Nat := (n + Config.ftAlign - 1) / Config.ftAlign * Config.ftAlign

/-- `READ_LAYOUT` of an address and a size (44_host_protocols R190). -/
def readPayload (l : Layouts) (address n : Nat) : Bytes :=
  layOut l.read { int := [(.address, address), (.size, roundUp n)], blob := [] }

/-- `COMPLETE_LAYOUT` of a run option (44_host_protocols R191). -/
def completePayload (l : Layouts) (run : RunOption) : Bytes :=
  layOut l.complete { int := [(.run, runCode l run)], blob := [] }

/-- A little-endian field of a reply (20_memory R47). Of a field that reaches past the reply's end the bytes that are there
count, which the spec does not say. DESIGN CHOICE, log 39. -/
def sliceNat (r : Bytes) (s : Slice) : Nat := leNat ((r.drop s.offset).take s.width)

/-- `READ_REPLY_DATA`, "trimmed back to the requested length" (44_host_protocols R190). Of a reply with fewer data bytes than
`n` the spec neither defines `d[0:n]` (00_scope R11) nor names an error; here the operation succeeds with the bytes that are
there. DESIGN CHOICE, log 39. -/
def readData (l : Layouts) (n : Nat) (r : Bytes) : Bytes := (r.drop l.readSkip).take n

/-- `ceil(L / M)` (44_host_protocols R193). -/
def chunkCount (len m : Nat) : Nat := (len + m - 1) / m

/-- The size of chunk `i` (44_host_protocols R193, R204). -/
def chunkSize (len m i : Nat) : Nat := min m (len - i * m)

/-- Chunk `i` of a payload: `payload[i*M : min((i+1)*M, L)]` (44_host_protocols R193). -/
def chunkAt (payload : Bytes) (m i : Nat) : Bytes := (payload.drop (i * m)).take m

/-- The operands of the `FT.INIT` that `FT.UPLOAD` begins with (44_host_protocols R192, R204). -/
def uploadInit (u : UploadArgs) : InitArgs where
  name := u.name
  function := .upload
  target := u.target
  volume := u.volume
  length := u.payload.length
  address := u.address
  crc := crc32 u.payload 0
  overwrite := u.overwrite
  typeTag := u.typeTag
  timestamp := u.timestamp
  version := u.version

/-- The operands of the `FT.INIT` that `FT.DOWNLOAD` begins with: CRC 0 (44_host_protocols R204, 92 D37). -/
def downloadInit (d : DownloadArgs) : InitArgs where
  name := d.name
  function := .download
  target := d.target
  volume := d.volume
  length := d.length
  address := d.address
  crc := 0
  overwrite := d.overwrite
  typeTag := d.typeTag
  timestamp := d.timestamp
  version := d.version

end Sys2Proof.Machine
end

