-- ==== Sys2Proof/Machine/Ops.lean ====
section
/-! DEFINITION. The named operations over the state that the meanings share: reporting a result, raising an error,
writing the channel, starting a receive, what follows a received packet, and consuming the channel's events. -/

namespace Sys2Proof.Machine

/-- Hand an outcome to its caller (00_scope R13). -/
def State.report (c : Caller) (r : Res) (s : State) : State := { s with reports := s.reports ++ [⟨c, r⟩] }

/-- `return v`: the operation ends with a result. There is no return from an error in the block (60_exceptions R243). -/
def State.ret (c : Caller) (v : Value) (s : State) : State := s.report c (.ok v)

/-- `raise e`: taking an error (60_exceptions R241). Nothing is saved, no mode or mask changes, control goes nowhere: the
caller receives the error, and the state changes are those that the rule of the raising operation gives. -/
def State.raise (c : Caller) (e : Err) (s : State) : State := s.report c (.error e)

/-- What a function of the operands gives, as an outcome. -/
def resOf {α : Type} (v : α → Value) : Except Err α → Res
  | .ok a => .ok (v a)
  | .error e => .error e

/-- `ChanWrite(bytes)` (00_scope R12, 44_host_protocols R186): the state after it, and whether the channel accepted. -/
def State.chanWrite (bytes : Bytes) (s : State) : State × Bool :=
  match s.chan.writes with
  | [] => ({ s with chan := { s.chan with tx := s.chan.tx ++ bytes } }, true)
  | .accepted :: ws => ({ s with chan := { s.chan with tx := s.chan.tx ++ bytes, writes := ws } }, true)
  | .failed sent :: ws => ({ s with chan := { s.chan with tx := s.chan.tx ++ bytes.take sent, writes := ws } }, false)

/-- `ChanWrite(bytes)` as an operation of its own: a write failure is `TransportError` (60_exceptions R211). It is carried
out also while an exchange waits, which 70_reset_and_hazards R263 and R269 forbid the host: its bytes follow those already
written. DESIGN CHOICE, log 41. -/
def State.writeOut (c : Caller) (bytes : Bytes) (s : State) : State :=
  match s.chanWrite bytes with
  | (s', true) => s'.ret c .unit
  | (s', false) => s'.raise c (.transport .channelFailure)

/-- Arm the framer (41_simple_packet R103). -/
def State.arm (s : State) : State := { s with sp := s.sp.arm }

/-- The session record is discarded (44_host_protocols R187, R195). -/
def State.dropSession (s : State) : State := { s with ft := none }

/-- The next chunk's address, in a session (44_host_protocols R187; log 21). -/
def State.advanceSession (address : Nat) (s : State) : State :=
  { s with ft := s.ft.map fun f => { f with address := address } }

/-- The first half of `EXT.XCHG` (42_extended_packet R129): refuse when busy, encode, write the whole request, arm the
framer for the reply. The primary device goes to `Querying`, unless it is in `Transferring`, and back to `Idle` when the request
is lost (44_host_protocols R198); so does the plain exchange, whatever its code. DEDUCED, log 31. -/
def State.startXchg (sub : Byte) (payload : Bytes) (s : State) : Option Err × State :=
  if s.sp.st ≠ .idle then (some .busy, s)
  else match extTx sub payload with
    | .error e => (some e, s)
    | .ok wire =>
      match s.chanWrite wire with
      | (s', true) => (none, { s'.arm with querying := s'.ft.isNone })
      | (s', false) => (some (.transport .channelFailure), { s' with querying := false })

/-- The switches of an exchange that checks the ACK and nothing else (44_host_protocols R189, R191). -/
def ackOnly : Checks := ⟨true, false, 0⟩

/-- The switches of `FT.INIT`'s exchange (44_host_protocols R188). -/
def initChecks (l : Layouts) : Checks := ⟨true, true, l.initReplyLen⟩

/-- Whether the operation belongs to a File Transfer Session, which any error of it ends: the operations that 44_host_protocols
R195 names, and the whole sessions made of them. An error of another exchange leaves a session that exists, and the device in
`Transferring`, though R187 and R198 speak of any error. DEDUCED, log 20. -/
def inSession : HostOp → Bool
  | .xchg .. => false
  | .command .. => false
  | .status .. => false
  | .boot _ => false
  | _ => true

/-- How an operation goes on: it ends with an outcome, or it waits for a packet. -/
inductive Flow where
  | done (r : Res) (s : State)
  | wait (frames : List Frame) (s : State)
deriving DecidableEq, Repr

/-- Write a request and wait for its reply, or fail at once (42_extended_packet R129). -/
def State.request (sub : Byte) (payload : Bytes) (frames : List Frame) (s : State) : Flow :=
  match s.startXchg sub payload with
  | (none, s') => .wait frames s'
  | (some e, s') => .done (.error e) s'

/-- What is kept of a command's reply: the status query's is the snapshot (44_host_protocols R198; log 25). -/
def keepFrames (code : Byte) : List Frame := if code = 0x22 then [.keepStatus] else []

/-- The first part of a host operation (44_host_protocols R188 to R191, R204), up to its first wait. The status comes from the
snapshot once that is fetched, and from the device before (R198). A legacy operation ends at once (R200; log 36). -/
def startHost (op : HostOp) (s : State) : Flow :=
  let l := s.params.layouts
  match op with
  | .xchg sub payload c => s.request sub payload [.decode sub c]
  | .command code payload c => s.request code payload (.decode code c :: keepFrames code)
  | .status payload c =>
    match s.snapshot with
    | some d => .done (.ok (.bytes d)) s
    | none => s.request 0x22 payload [.decode 0x22 c, .keepStatus]
  | .boot op =>
    .done (s.legacy.perform s.params.bootExtraTries op).1
      { s with legacy := (s.legacy.perform s.params.bootExtraTries op).2 }
  | .init a => s.request 0x11 (initPayload l a) [.decode 0x11 (initChecks l), .init a.length a.address a.crc]
  | .write address data =>
    s.request 0x13 (writePayload s.params address data) [.decode 0x13 ackOnly, .write address data.length]
  | .read address n c => s.request 0x14 (readPayload l address n) [.decode 0x14 c, .read address n]
  | .complete run => s.request 0x12 (completePayload l run) [.decode 0x12 ackOnly, .complete]
  | .upload u =>
    State.request 0x11 (initPayload l (uploadInit u))
      [.decode 0x11 (initChecks l), .init u.payload.length u.address (crc32 u.payload 0), .upload u 0]
      { s with acc32 := crc32 u.payload 0 }
  | .download d =>
    s.request 0x11 (initPayload l (downloadInit d)) [.decode 0x11 (initChecks l), .init d.length d.address 0, .download d 0 []]

/-- Begin a host operation; `after` is what follows its end when it waits. An error at once ends the session, if the operation
belongs to one (44_host_protocols R195; log 20). -/
def launch (op : HostOp) (after : List Frame) (s : State) : Flow :=
  match startHost op s with
  | .wait frames s' => .wait (frames ++ after) s'
  | .done (.error e) s' => .done (.error e) (if inSession op then s'.dropSession else s')
  | .done (.ok v) s' => .done (.ok v) s'

/-- One attempt of `RETRY`: the operation from its beginning, its number in the attempt counter when it waits
(44_host_protocols R196). An attempt that ends at once leaves the counter as it was. DESIGN CHOICE, log 5. -/
def attemptOnce (op : HostOp) (policy : RetryPolicy) (attempt : Nat) (s : State) : Flow :=
  match launch op [.retry op policy] s with
  | .wait frames s' => .wait frames { s' with attempt := attempt }
  | .done r s' => .done r s'

/-- The loop of `RETRY` from one attempt on, with at most `left` more after it (44_host_protocols R196). What it repeats is the
operation it was given, so of a single `FT.WRITE`, `FT.READ` or `FT.COMPLETE` that exchange only, after its session was dropped,
though R195 and 70_reset_and_hazards R270 start again at `FT.INIT`; a whole session is repeated by `RETRY` of `FT.UPLOAD` or
`FT.DOWNLOAD`. DESIGN CHOICE, log 42. -/
def attempts (op : HostOp) (policy : RetryPolicy) : (left attempt : Nat) → State → Flow
  | 0, attempt, s => attemptOnce op policy attempt s
  | left + 1, attempt, s =>
    match attemptOnce op policy attempt s with
    | .done (.error e) s' =>
      if retries s'.params policy.retryable e then attempts op policy left (attempt + 1) s' else .done (.error e) s'
    | f => f

/-- `FT.UPLOAD` from chunk `i` on (44_host_protocols R204): the next chunk, strictly in order, or the completion. -/
def uploadNext (u : UploadArgs) (i : Nat) (s : State) : Flow :=
  if i < chunkCount u.payload.length u.chunk then
    launch (.write (u.address + i * u.chunk) (chunkAt u.payload u.chunk i)) [.upload u (i + 1)] s
  else launch (.complete u.run) [] s

/-- `FT.DOWNLOAD` from chunk `i` on (44_host_protocols R204). Every chunk's
`FT.READ` has the same switches, the shorter last one too, which the spec leaves open (91 N13). DESIGN CHOICE, log 22. -/
def downloadNext (d : DownloadArgs) (i : Nat) (out : Bytes) (s : State) : Flow :=
  if i < chunkCount d.length d.chunk then
    launch (.read (d.address + i * d.chunk) (chunkSize d.length d.chunk i) d.checks) [.download d (i + 1) out] s
  else launch (.complete .dontRun) [.downloaded out] s

/-- The bytes that a step of `FT.DOWNLOAD` adds to its result: those of an `FT.READ`. -/
def gained : Value → Bytes
  | .bytes bs => bs
  | _ => []

/-- One frame takes the outcome of the one inside it. A reply or an error of an exchange takes the primary device out of
`Querying`, and `FT.INIT` succeeding to `Transferring` (44_host_protocols R198); that the end of an `EXT.RX` is such a reply
or error is DEDUCED, log 31. What the frame of `RETRY` repeats: log 42. -/
def Frame.resume (f : Frame) (r : Res) (s : State) : Flow :=
  match f, r with
  | .decode sub c, .ok (.packet p) => .done (resOf .bytes (extDecode s.params p sub c)) { s with querying := false }
  | .decode _ _, r => .done r { s with querying := false }
  | .init length address crc, .ok (.bytes q) =>
    let l := s.params.layouts
    let fileSize := sliceNat q l.fileSize
    if fileSize < length then .done (.error .unexpectedLength) s.dropSession
    else
      .done (.ok (.session (sliceNat q l.maxPacketSize) fileSize (sliceNat q l.deviceCrc)))
        { s with querying := false, ft := some ⟨sliceNat q l.maxPacketSize, fileSize, sliceNat q l.deviceCrc, address, length, crc⟩ }
  | .init _ _ _, r => .done r s.dropSession
  | .write address n, .ok _ => .done (.ok .unit) (s.advanceSession (address + n))
  | .write _ _, .error e => .done (.error e) s.dropSession
  | .read address n, .ok (.bytes q) =>
    .done (.ok (.bytes (readData s.params.layouts n q))) (s.advanceSession (address + n))
  | .read _ _, r => .done r s.dropSession
  | .complete, .ok _ => .done (.ok .unit) s.dropSession
  | .complete, .error e => .done (.error e) s.dropSession
  | .upload u i, .ok _ => uploadNext u i s
  | .upload _ _, .error e => .done (.error e) s
  | .download d i out, .ok v => downloadNext d i (out ++ gained v) s
  | .download _ _ _, .error e => .done (.error e) s
  | .downloaded out, .ok _ => .done (.ok (.bytes out)) s
  | .downloaded _, .error e => .done (.error e) s
  | .retry _ _, .ok v => .done (.ok v) s
  | .retry op policy, .error e =>
    if retries s.params policy.retryable e ∧ s.attempt < policy.max then
      attempts op policy (policy.max - s.attempt - 1) (s.attempt + 1) s
    else .done (.error e) s
  | .keepStatus, .ok v => .done (.ok v) { s with snapshot := some (gained v) }
  | .keepStatus, .error e => .done (.error e) s

/-- An outcome goes up the frames until one waits for another packet, or to the caller: "each layer passes the errors of
the layer below upward unchanged" (60_exceptions R244). -/
def State.unwind : List Frame → Res → State → State
  | [], r, s => State.report .owner r { s with task := none }
  | f :: fs, r, s =>
    match f.resume r s with
    | .done r' s' => State.unwind fs r' s'
    | .wait fs' s' => { s' with task := some (fs' ++ fs) }

/-- `SP.STEP` as the waiting operation takes it: the framer's step, and at an outcome what the operation does with it. -/
def State.framerEvent (e : ChanEvent) (s : State) : State :=
  let s' := { s with sp := (s.sp.step e).1 }
  match (s.sp.step e).2, s.task with
  | some o, some fs => State.unwind fs (resOf .packet o) s'
  | _, _ => s'

/-- The loop of `MUX.READ` up to its next `ChanRead()` (43_mux_stream R168): cut, decode and filter what the buffer holds;
deliver the first frame that passes; with none, raise `Cancelled` if the flag is set, else wait. -/
def State.readerPoll (s : State) : State :=
  match muxScan s.mux.subs s.mux.promisc [] s.mux.buf with
  | (some (t, payload), buf) =>
    State.ret .reader (.frame t payload) { s with mux := { s.mux with buf := buf }, reading := false }
  | (none, buf) =>
    if s.mux.cancel then State.raise .reader .cancelled { s with mux := { s.mux with buf := buf }, reading := false }
    else { s with mux := { s.mux with buf := buf }, reading := true }

/-- A waiting `MUX.READ` takes one event (43_mux_stream R168). -/
def State.readerEvent (e : ChanEvent) (s : State) : State :=
  match e with
  | .byte b => State.readerPoll { s with mux := { s.mux with buf := s.mux.buf ++ [b] } }
  | .timeout => s
  | .fail =>
    State.raise .reader (.transport .channelFailure) { s with mux := { s.mux with cancel := true }, reading := false }

/-- The event `cancel` (43_mux_stream R174): the flag is set, and a waiting `MUX.READ` ends with `Cancelled`. -/
def State.cancelEvent (s : State) : State :=
  let s' := { s with mux := { s.mux with cancel := true } }
  if s.reading then State.raise .reader .cancelled { s' with reading := false } else s'

/-- An operation waits for the framer. In `IDLE` the framer consumes nothing (41_simple_packet R103). -/
def State.framing (s : State) : Bool := s.task.isSome && s.sp.st != .idle

/-- One event of the channel goes to the operation that waits; when two wait, the channel's choice says which (log 16). -/
def State.takeEvent (e : Event) (s : State) : State :=
  match e with
  | .cancel => s.cancelEvent
  | .chan e =>
    if s.framing && s.reading then
      let s' := { s with chan := { s.chan with arb := s.chan.arb.tail } }
      if s.chan.arb.headD false then s'.readerEvent e else s'.framerEvent e
    else if s.reading then s.readerEvent e
    else s.framerEvent e

/-- Some operation waits for an event. -/
def State.waiting (s : State) : Bool := s.framing || s.reading

/-- The waiting operations consume the channel's events, one at a time and in order, until none waits or no event is left
(00_scope R8, R13; 41_simple_packet R113). The events given are those of `chan.rx`. -/
def State.drain : List Event → State → State
  | [], s => s
  | e :: es, s =>
    if s.waiting then State.drain es (State.takeEvent e { s with chan := { s.chan with rx := es } })
    else s

/-- Let the waiting operations go on as far as the events in the channel carry them. -/
def State.settle (s : State) : State := State.drain s.chan.rx s

/-- Events arrive from the device: they join the channel's receive stream, and a waiting operation consumes them. -/
def State.arrive (es : List Event) (s : State) : State :=
  State.settle { s with chan := { s.chan with rx := s.chan.rx ++ es } }

/-- Bytes arrive from the device. -/
def State.arriveBytes (bs : Bytes) (s : State) : State := s.arrive (bs.map fun b => .chan (.byte b))

/-- Begin a receiving operation on the framer, or refuse with `Busy` (41_simple_packet R102, R117). -/
def State.receive (frames : List Frame) (s : State) : State :=
  if s.sp.st ≠ .idle then s.raise .owner .busy
  else State.settle { s.arm with task := some frames }

/-- A host operation goes on: it waits for the framer, or its outcome goes to the owner. -/
def State.proceed : Flow → State
  | .wait frames s => State.settle { s with task := some frames }
  | .done r s => s.report .owner r

/-- Invoke a host operation. -/
def State.invoke (op : HostOp) (s : State) : State := State.proceed (launch op [] s)

/-- The operands are inside the rules: a chunk size is not 0 (44_host_protocols R193). -/
def chunked : HostOp → Bool
  | .upload u => u.chunk != 0
  | .download d => d.chunk != 0
  | _ => true

/-- Why the host may not begin an operation now, if it may not: a chunk size of 0 (44_host_protocols R193; log 23), a
capability the device lacks (R202; log 37), a program-write that is too long (R200; log 23). -/
def State.objection (op : HostOp) (s : State) : Option Refusal :=
  if !chunked op then some .chunkSizeZero
  else if !s.device.serves (opCapability op) then some .outsideCapabilities
  else match op with
    | .boot b => if !bootShort b then some .bootWriteTooLong else none
    | _ => none

/-- The block's reset (70_reset_and_hazards R260, R261): every register of the block takes its reset value, and an operation
in progress is abandoned without a result. The channel and the host's session, snapshot, attempt counter and device state keep
theirs. `sp.cmd`, `sp.len`, `sp.cnt`, `sp.hlen` are unspecified there: DESIGN CHOICE, log 4. -/
def State.blockReset (s : State) : State :=
  { s with acc16 := 0, acc32 := 0, sp := Framer.reset, mux := Mux.reset, task := none, reading := false, resetAsked := false }

/-- What a meaning answers. -/
abbrev Answer := Host.Outcome State Fault Refusal

/-- Carry out a host operation, unless the rules have an objection. -/
def State.perform (op : HostOp) (s : State) : Answer :=
  match s.objection op with
  | some r => .refused r
  | none => .next (s.invoke op)

end Sys2Proof.Machine
end

