-- ==== Sys2Proof/Machine/Ack.lean ====
section
/-! DEFINITION. The meanings of the acknowledgment byte and of the rejection codes (30_encoding R71, R76, 60_exceptions R224
to R238): the byte in the acknowledgment position of a reply, read by `ACK.DECODE`. Log 12. -/

namespace Sys2Proof.Machine

/-- The acknowledgment byte `b` of a reply (42_extended_packet R126). -/
def State.ackByte (b : Byte) (s : State) : State := s.report .owner (resOf (fun _ => .ack) (ackDecode s.params b))

/-- `ACK`: the byte `ACK_BYTE` (30_encoding R71). -/
def execAck (s : State) : Answer := .next (s.ackByte s.params.ackByte)

/-- NACK `0xFF`, `General` (60_exceptions R224). -/
def execNackGeneral (s : State) : Answer := .next (s.ackByte 0xFF)

/-- NACK `0xCE`, `CrcError` (60_exceptions R225). -/
def execNackCrcError (s : State) : Answer := .next (s.ackByte 0xCE)

/-- NACK `0xD0`, `PayloadTooSmall` (60_exceptions R226). -/
def execNackPayloadTooSmall (s : State) : Answer := .next (s.ackByte 0xD0)

/-- NACK `0xD1`, `RequestTooLarge` (60_exceptions R227). -/
def execNackRequestTooLarge (s : State) : Answer := .next (s.ackByte 0xD1)

/-- NACK `0xD2`, `ProgramCrcError` (60_exceptions R228). -/
def execNackProgramCrcError (s : State) : Answer := .next (s.ackByte 0xD2)

/-- NACK `0xD3`, `ProgramFileError` (60_exceptions R229). -/
def execNackProgramFileError (s : State) : Answer := .next (s.ackByte 0xD3)

/-- NACK `0xD4`, `UninitializedTransfer` (60_exceptions R230). -/
def execNackUninitializedTransfer (s : State) : Answer := .next (s.ackByte 0xD4)

/-- NACK `0xD5`, `InvalidInitForFunction` (60_exceptions R231). -/
def execNackInvalidInitForFunction (s : State) : Answer := .next (s.ackByte 0xD5)

/-- NACK `0xD6`, `DataNotMultipleOf4` (60_exceptions R232). -/
def execNackDataNotMultipleOf4 (s : State) : Answer := .next (s.ackByte 0xD6)

/-- NACK `0xD7`, `AddressMismatch` (60_exceptions R233). -/
def execNackAddressMismatch (s : State) : Answer := .next (s.ackByte 0xD7)

/-- NACK `0xD8`, `LengthMismatch` (60_exceptions R234). -/
def execNackLengthMismatch (s : State) : Answer := .next (s.ackByte 0xD8)

/-- NACK `0xD9`, `DirectoryEntryMissing` (60_exceptions R235). -/
def execNackDirectoryEntryMissing (s : State) : Answer := .next (s.ackByte 0xD9)

/-- NACK `0xDA`, `MaxFilesReached` (60_exceptions R236). -/
def execNackMaxFilesReached (s : State) : Answer := .next (s.ackByte 0xDA)

/-- NACK `0xDB`, `FileExists` (60_exceptions R237). -/
def execNackFileExists (s : State) : Answer := .next (s.ackByte 0xDB)

/-- Any other byte (60_exceptions R238). -/
def execNackOther (b : Byte) (s : State) : Answer := .next (s.ackByte b)

end Sys2Proof.Machine
end

