-- ==== Sys2Proof/Machine/Crc.lean ====
section
/-! DEFINITION. The meanings of the CRC operations (40_crc). -/

namespace Sys2Proof.Machine

/-- `CRC.BUILD(W, P)` (40_crc R86, R94): the table is handed to the caller; a width below 8 is refused. -/
def execCrcBuild (w P : Nat) (s : State) : Answer :=
  .next (s.report .owner (resOf (fun T => .table w (T.map (·.toNat))) (crcBuild w P)))

/-- `CRC.UPD(W, T, acc, b)` (40_crc R88). With a table of another width the result is a free value (93 U1; log 9). -/
def execCrcUpd (w : Nat) (t : TableRef) (acc : Nat) (b : Byte) (s : State) : Answer :=
  if w < Config.crcWidthMin ∨ t.width < Config.crcWidthMin then .refused .tableNeverBuilt
  else .next (s.ret .owner (.checksum w (crcWith w t [b] acc).toNat))

/-- Whether an engine of this width and table is the instance `CRC16` (40_crc R90). -/
def isCrc16 (w : Nat) (t : TableRef) : Bool := w == 16 && t.width == 16 && t.poly % 2 ^ 16 == Config.crc16Poly

/-- Whether an engine of this width and table is the instance `CRC32` (40_crc R91). -/
def isCrc32 (w : Nat) (t : TableRef) : Bool := w == 32 && t.width == 32 && t.poly % 2 ^ 32 == Config.crc32Poly

/-- The working register of an instance holds the last result of its computation (10_state R21; log 8). -/
def State.storeAcc (w : Nat) (t : TableRef) (v : Nat) (s : State) : State :=
  if isCrc16 w t then { s with acc16 := BitVec.ofNat 16 v }
  else if isCrc32 w t then { s with acc32 := BitVec.ofNat 32 v }
  else s

/-- `CRC.COMPUTE(W, T, bytes, initial)` (40_crc R89). With a table of another width the result is a free value (93 U1;
log 9). -/
def execCrcCompute (w : Nat) (t : TableRef) (bytes : Bytes) (initial : Nat) (s : State) : Answer :=
  if w < Config.crcWidthMin ∨ t.width < Config.crcWidthMin then .refused .tableNeverBuilt
  else
    let v := (crcWith w t bytes initial).toNat
    .next ((s.storeAcc w t v).ret .owner (.checksum w v))

/-- `CRC16.COMPUTE(bytes, initial)` (40_crc R90). -/
def execCrc16Compute (bytes : Bytes) (initial : BitVec 16) (s : State) : Answer :=
  .next (State.ret .owner (.checksum 16 (crc16 bytes initial).toNat) { s with acc16 := crc16 bytes initial })

/-- `CRC32.COMPUTE(bytes, initial)` (40_crc R91). -/
def execCrc32Compute (bytes : Bytes) (initial : BitVec 32) (s : State) : Answer :=
  .next (State.ret .owner (.checksum 32 (crc32 bytes initial).toNat) { s with acc32 := crc32 bytes initial })

end Sys2Proof.Machine
end

