-- ==== Sys2Proof/Machine/Ext.lean ====
section
/-! DEFINITION. The meanings of the extended-packet operations (42_extended_packet). -/

namespace Sys2Proof.Machine

/-- `EXT.LENENC(L)` (42_extended_packet R121). -/
def execExtLenEnc (len : Nat) (s : State) : Answer := .next (s.report .owner (resOf .bytes (extLenEnc len)))

/-- `EXT.LENDEC(bytes)` (42_extended_packet R122). -/
def execExtLenDec (bytes : Bytes) (s : State) : Answer :=
  .next (s.report .owner (resOf (fun r => .length r.1 r.2) (extLenDec bytes)))

/-- `EXT.TX(sub, payload)` (42_extended_packet R123): the wire is handed to the caller; no state is written. -/
def execExtTx (sub : Byte) (payload : Bytes) (s : State) : Answer :=
  .next (s.report .owner (resOf .bytes (extTx sub payload)))

/-- `EXT.DECODE(p, expected_sub, check_ack, check_len, expected_len)` (42_extended_packet R124); no state is written. -/
def execExtDecode (p : Packet) (sub : Byte) (c : Checks) (s : State) : Answer :=
  .next (s.report .owner (resOf .bytes (extDecode s.params p sub c)))

/-- `EXT.RX(expected_sub, check_ack, check_len, expected_len)` (42_extended_packet R125): `SP.RX`, then `EXT.DECODE` of its
packet. -/
def execExtRx (sub : Byte) (c : Checks) (s : State) : Answer := .next (s.receive [.decode sub c])

/-- `ACK.DECODE(b)` (42_extended_packet R126). -/
def execAckDecode (b : Byte) (s : State) : Answer :=
  .next (s.report .owner (resOf (fun _ => .ack) (ackDecode s.params b)))

/-- `EXT.XCHG(sub, payload, check_ack, check_len, expected_len)` (42_extended_packet R129). -/
def execExtXchg (sub : Byte) (payload : Bytes) (c : Checks) (s : State) : Answer := s.perform (.xchg sub payload c)

end Sys2Proof.Machine
end

