-- ==== Sys2Proof/Machine/HostAgent.lean ====
section
/-! DEFINITION. The meanings of the file transfer and retry operations (44_host_protocols). -/

namespace Sys2Proof.Machine

/-- `FT.INIT` (44_host_protocols R188). -/
def execFtInit (a : InitArgs) (s : State) : Answer := s.perform (.init a)

/-- `FT.WRITE(address, bytes)` (44_host_protocols R189). -/
def execFtWrite (address : Nat) (data : Bytes) (s : State) : Answer := s.perform (.write address data)

/-- `FT.READ(address, n_bytes)` (44_host_protocols R190); the reply's switches are the caller's (log 22). -/
def execFtRead (address n : Nat) (c : Checks) (s : State) : Answer := s.perform (.read address n c)

/-- `FT.COMPLETE(run_option)` (44_host_protocols R191). -/
def execFtComplete (run : RunOption) (s : State) : Answer := s.perform (.complete run)

/-- `FT.UPLOAD` (44_host_protocols R204); a chunk size of 0 is outside the rule `0 < M` (R193; log 23). -/
def execFtUpload (u : UploadArgs) (s : State) : Answer := s.perform (.upload u)

/-- `FT.DOWNLOAD` (44_host_protocols R204); a chunk size of 0 is outside the rule `0 < M` (R193; log 23). -/
def execFtDownload (d : DownloadArgs) (s : State) : Answer := s.perform (.download d)

/-- `RETRY(op, max, retryable)` (44_host_protocols R196): the whole operation again after a retryable error, at most `max`
attempts in all; the last error is raised unchanged. `max = 0` is outside the rules (93 U6; log 23). -/
def execRetry (op : HostOp) (policy : RetryPolicy) (s : State) : Answer :=
  if policy.max = 0 then .refused .retryMaxZero
  else match s.objection op with
    | some r => .refused r
    | none => .next (State.proceed (attempts op policy (policy.max - 1) 1 s))

/-- `CLASSIFY(e)` (44_host_protocols R197). -/
def execClassify (e : Err) (s : State) : Answer := .next (s.ret .owner (.retried (classifyErr s.params e)))

end Sys2Proof.Machine
end

