-- ==== Sys2Proof/Machine/Sp.lean ====
section
/-! DEFINITION. The meanings of the simple-packet operations (41_simple_packet). -/

namespace Sys2Proof.Machine

/-- `SP.TX(cmd, payload)` (41_simple_packet R101): the wire is handed to the caller. -/
def execSpTx (cmd : Byte) (payload : Bytes) (s : State) : Answer := .next (s.ret .owner (.bytes (spTx cmd payload)))

/-- `SP.RX()` (41_simple_packet R102): refused when busy (R117), else armed, and then one `SP.STEP` for each event the
channel holds, until the packet or an error. With no event left it waits. -/
def execSpRx (s : State) : Answer := .next (s.receive [])

/-- `SP.STEP(e)` (41_simple_packet R118): one step of the framer on the event `e`, whose next state or outcome is handed to
the caller; an operation that waits for the framer takes the outcome as its own. Not defined in `IDLE` (log 14). -/
def execSpStep (e : ChanEvent) (s : State) : Answer :=
  if s.sp.st = .idle then .fault .stepInIdle
  else
    let v := match (s.sp.step e).2 with
      | none => .ok (.framer (s.sp.step e).1.st)
      | some o => resOf .packet o
    .next ((s.report .owner v).framerEvent e)

end Sys2Proof.Machine
end

