-- ==== Sys2Proof/Machine/Stream.lean ====
section
/-! DEFINITION. The meanings of the byte-stuffing and stream operations (43_mux_stream). -/

namespace Sys2Proof.Machine

/-- `COBS.DECODE(e)` (43_mux_stream R162); `Malformed` is an outcome, no error. -/
def execCobsDecode (e : Bytes) (s : State) : Answer :=
  .next (s.ret .owner (match cobsDecode e with | some d => .bytes d | none => .malformed))

/-- `COBS.ENCODE(d)` (43_mux_stream R163). -/
def execCobsEncode (d : Bytes) (s : State) : Answer := .next (s.ret .owner (.bytes (cobsEncode d)))

/-- Write the subscription set (43_mux_stream R165, R166). -/
def State.setSubs (subs : List Topic) (s : State) : State := { s with mux := { s.mux with subs := subs } }

/-- `MUX.SUB(topic)` (43_mux_stream R165). -/
def execMuxSub (topic : Bytes) (s : State) : Answer :=
  match Topic.ofBytes topic with
  | some t => .next ((s.setSubs (insertTopic t s.mux.subs)).ret .reader .unit)
  | none => .next (s.raise .reader (.invalidTopic topic))

/-- `MUX.UNSUB(topic)` (43_mux_stream R166). -/
def execMuxUnsub (topic : Bytes) (s : State) : Answer :=
  match Topic.ofBytes topic with
  | some t => .next ((s.setSubs (removeTopic t s.mux.subs)).ret .reader .unit)
  | none => .next (s.raise .reader (.invalidTopic topic))

/-- `MUX.PROMISC(v)` (43_mux_stream R167). -/
def execMuxPromisc (v : Bool) (s : State) : Answer :=
  .next (State.ret .reader .unit { s with mux := { s.mux with promisc := v } })

/-- `MUX.READ()` (43_mux_stream R168). A second one while one waits is outside the rules (93 U3; log 18). -/
def execMuxRead (s : State) : Answer :=
  if s.reading then .refused .concurrentRead else .next s.readerPoll.settle

/-- `MUX.WRITE(bytes)` (43_mux_stream R173): a passthrough to the channel, also while an exchange waits (70_reset_and_hazards
R263, R269). DESIGN CHOICE, log 41. -/
def execMuxWrite (bytes : Bytes) (s : State) : Answer := .next (s.writeOut .writer bytes)

/-- `MUX.CANCEL` (43_mux_stream R174): an event, not a call, so it has no report of its own. -/
def execMuxCancel (s : State) : Answer := .next s.cancelEvent

end Sys2Proof.Machine
end

