-- ==== Sys2Proof/Machine/Sub.lean ====
section
/-! DEFINITION. The meanings of the sub-command rows (42_extended_packet R130 to R145): one exchange with that sub-command,
its request payload and its reply's switches the caller's. Log 13. -/

namespace Sys2Proof.Machine

/-- A command of the primary device, one exchange of its sub-command: "request wire `EXT.TX(code, request payload)`,
reply decoded by `EXT.DECODE` with `expected_sub = code`" (42_extended_packet R130). -/
def State.subExchange (code : Byte) (payload : Bytes) (c : Checks) (s : State) : Answer := s.perform (.command code payload c)

/-- `FT_INIT`, `0x11` (42_extended_packet R131). -/
def execSubFtInit (payload : Bytes) (c : Checks) (s : State) : Answer := s.subExchange 0x11 payload c

/-- `FT_COMPLETE`, `0x12` (42_extended_packet R132). -/
def execSubFtComplete (payload : Bytes) (c : Checks) (s : State) : Answer := s.subExchange 0x12 payload c

/-- `FT_WRITE`, `0x13` (42_extended_packet R133). -/
def execSubFtWrite (payload : Bytes) (c : Checks) (s : State) : Answer := s.subExchange 0x13 payload c

/-- `FT_READ`, `0x14` (42_extended_packet R134). -/
def execSubFtRead (payload : Bytes) (c : Checks) (s : State) : Answer := s.subExchange 0x14 payload c

/-- `FT_SET_LINK`, `0x15` (42_extended_packet R135). -/
def execSubFtSetLink (payload : Bytes) (c : Checks) (s : State) : Answer := s.subExchange 0x15 payload c

/-- `DIR_COUNT`, `0x16` (42_extended_packet R136). -/
def execSubDirCount (payload : Bytes) (c : Checks) (s : State) : Answer := s.subExchange 0x16 payload c

/-- `DIR_ENTRY`, `0x17` (42_extended_packet R137). -/
def execSubDirEntry (payload : Bytes) (c : Checks) (s : State) : Answer := s.subExchange 0x17 payload c

/-- `EXEC_FILE`, `0x18` (42_extended_packet R138). -/
def execSubExecFile (payload : Bytes) (c : Checks) (s : State) : Answer := s.subExchange 0x18 payload c

/-- `FILE_META_GET`, `0x19` (42_extended_packet R139). -/
def execSubFileMetaGet (payload : Bytes) (c : Checks) (s : State) : Answer := s.subExchange 0x19 payload c

/-- `FILE_META_SET`, `0x1A` (42_extended_packet R140). -/
def execSubFileMetaSet (payload : Bytes) (c : Checks) (s : State) : Answer := s.subExchange 0x1A payload c

/-- `FILE_ERASE`, `0x1B` (42_extended_packet R141). -/
def execSubFileErase (payload : Bytes) (c : Checks) (s : State) : Answer := s.subExchange 0x1B payload c

/-- `SLOT_GET`, `0x1C` (42_extended_packet R142). -/
def execSubSlotGet (payload : Bytes) (c : Checks) (s : State) : Answer := s.subExchange 0x1C payload c

/-- `SYS_STATUS`, `0x22` (42_extended_packet R143): its reply is kept as the status snapshot (44_host_protocols R198; log 25). -/
def execSubSysStatus (payload : Bytes) (c : Checks) (s : State) : Answer := s.subExchange 0x22 payload c

/-- `SCREEN_CAP_INIT`, `0x28` (42_extended_packet R144). -/
def execSubScreenCapInit (payload : Bytes) (c : Checks) (s : State) : Answer := s.subExchange 0x28 payload c

/-- `SUB.OTHER`: any other code, "carried without interpretation" (42_extended_packet R145). -/
def execSubOther (sub : Byte) (payload : Bytes) (c : Checks) (s : State) : Answer := s.perform (.xchg sub payload c)

end Sys2Proof.Machine
end

