-- ==== Sys2Proof/Machine/Wire.lean ====
section
/-! DEFINITION. The meanings of the wire-format rows (30_encoding R63 to R74). A row of a host-to-device format puts its
packet on the wire; a row of a device-to-host format is the device's bytes arriving, which a waiting operation consumes and
which otherwise stay in the channel; a row of a length field is read by the length decoder. Log 11, 12. -/

namespace Sys2Proof.Machine

/-- `F-SPTX.HEADER` (30_encoding R64): `SP.TX` handed to the channel, also while an exchange waits. DESIGN CHOICE, log 41. -/
def execFSptxHeader (cmd : Byte) (payload : Bytes) (s : State) : Answer := .next (s.writeOut .owner (spTx cmd payload))

/-- `F-SPRX.SHORT` (30_encoding R65): a simple packet arrives whose length field has one byte. -/
def execFSprxShort (cmd : Byte) (payload : Bytes) (s : State) : Answer :=
  if payload.length < (if cmd = Config.extCmd then 128 else 256) then .next (s.arriveBytes (sprxShort cmd payload))
  else .refused .unframable

/-- `F-SPRX.LONG` (30_encoding R65): a packet of the reserved command arrives whose length field has two bytes. -/
def execFSprxLong (payload : Bytes) (s : State) : Answer :=
  if payload.length ≤ Config.extLenMax then .next (s.arriveBytes (sprxLong payload)) else .refused .unframable

/-- `F-LEN.SHORT` (30_encoding R66): the length a one-byte field spells. -/
def execFLenShort (len : BitVec 7) (s : State) : Answer :=
  .next (s.report .owner (resOf (fun r => .length r.1 r.2) (extLenDec [len.setWidth 8])))

/-- `F-LEN.LONG` (30_encoding R66): the length a two-byte field spells, whatever its value (92 D7). -/
def execFLenLong (len : BitVec 15) (s : State) : Answer :=
  .next (s.report .owner
    (resOf (fun r => .length r.1 r.2) (extLenDec [0x80 ||| (len >>> 8).setWidth 8, len.setWidth 8])))

/-- `F-EXT.TX` (30_encoding R68): `EXT.TX` handed to the channel; a payload above 32767 bytes is refused before anything is
written (42_extended_packet R121). It is written also while an exchange waits. DESIGN CHOICE, log 41. -/
def execFExtTx (sub : Byte) (payload : Bytes) (s : State) : Answer :=
  match extTx sub payload with
  | .ok wire => .next (s.writeOut .owner wire)
  | .error e => .next (s.raise .owner e)

/-- `F-EXT.RX` (30_encoding R69): an extended packet arrives, as a device builds it (42_extended_packet R127). -/
def execFExtRx (sub : Byte) (payload : Bytes) (s : State) : Answer :=
  match extReply s.params sub payload with
  | .ok wire => .next (s.arriveBytes wire)
  | .error _ => .refused .unframable

/-- `F-MUX.DELIM` (43_mux_stream R169): a delimiter arrives. -/
def execFMuxDelim (s : State) : Answer := .next (s.arriveBytes [Config.muxDelim])

/-- `F-MUX.FRAME` (30_encoding R72): a stuffed frame and its delimiter arrive. -/
def execFMuxFrame (t : Topic) (payload : Bytes) (s : State) : Answer := .next (s.arriveBytes (muxFrame t payload))

/-- `F-COBS.BLOCK` (30_encoding R73): a block arrives, its code byte and its non-zero data bytes. -/
def execFCobsBlock (data : Bytes) (s : State) : Answer :=
  if data.length ≤ 254 ∧ ¬ data.contains 0 then .next (s.arriveBytes (BitVec.ofNat 8 (data.length + 1) :: data))
  else .refused .unframable

/-- `CMD.EXT` (30_encoding R74): the reserved command byte arrives; a framer in `CMD` latches it (41_simple_packet R106). -/
def execCmdExt (s : State) : Answer := .next (s.arriveBytes [Config.extCmd])

end Sys2Proof.Machine
end

