-- ==== Sys2Proof/Machine/Dispatch.lean ====
section
/-! DEFINITION. One arm for each instruction. -/

namespace Sys2Proof.Machine

def exec (i : Instr) (s : State) : Host.Outcome State Fault Refusal :=
  match i with
  | .crcBuild width poly => Sys2Proof.Machine.execCrcBuild width poly s
  | .crcUpd width table acc b => Sys2Proof.Machine.execCrcUpd width table acc b s
  | .crcCompute width table bytes initial => Sys2Proof.Machine.execCrcCompute width table bytes initial s
  | .crc16Compute bytes initial => Sys2Proof.Machine.execCrc16Compute bytes initial s
  | .crc32Compute bytes initial => Sys2Proof.Machine.execCrc32Compute bytes initial s
  | .spTx cmd payload => Sys2Proof.Machine.execSpTx cmd payload s
  | .spRx => Sys2Proof.Machine.execSpRx s
  | .spStep e => Sys2Proof.Machine.execSpStep e s
  | .extLenEnc len => Sys2Proof.Machine.execExtLenEnc len s
  | .extLenDec bytes => Sys2Proof.Machine.execExtLenDec bytes s
  | .extTx sub payload => Sys2Proof.Machine.execExtTx sub payload s
  | .extDecode p sub checks => Sys2Proof.Machine.execExtDecode p sub checks s
  | .extRx sub checks => Sys2Proof.Machine.execExtRx sub checks s
  | .ackDecode b => Sys2Proof.Machine.execAckDecode b s
  | .cobsDecode bytes => Sys2Proof.Machine.execCobsDecode bytes s
  | .cobsEncode bytes => Sys2Proof.Machine.execCobsEncode bytes s
  | .muxSub topic => Sys2Proof.Machine.execMuxSub topic s
  | .muxUnsub topic => Sys2Proof.Machine.execMuxUnsub topic s
  | .muxPromisc v => Sys2Proof.Machine.execMuxPromisc v s
  | .muxRead => Sys2Proof.Machine.execMuxRead s
  | .muxWrite bytes => Sys2Proof.Machine.execMuxWrite bytes s
  | .muxCancel => Sys2Proof.Machine.execMuxCancel s
  | .extXchg sub payload checks => Sys2Proof.Machine.execExtXchg sub payload checks s
  | .ftInit args => Sys2Proof.Machine.execFtInit args s
  | .ftWrite address data => Sys2Proof.Machine.execFtWrite address data s
  | .ftRead address n checks => Sys2Proof.Machine.execFtRead address n checks s
  | .ftComplete run => Sys2Proof.Machine.execFtComplete run s
  | .ftUpload args => Sys2Proof.Machine.execFtUpload args s
  | .ftDownload args => Sys2Proof.Machine.execFtDownload args s
  | .retry op policy => Sys2Proof.Machine.execRetry op policy s
  | .classify e => Sys2Proof.Machine.execClassify e s
  | .fSptxHeader cmd payload => Sys2Proof.Machine.execFSptxHeader cmd payload s
  | .fSprxShort cmd payload => Sys2Proof.Machine.execFSprxShort cmd payload s
  | .fSprxLong payload => Sys2Proof.Machine.execFSprxLong payload s
  | .fLenShort len => Sys2Proof.Machine.execFLenShort len s
  | .fLenLong len => Sys2Proof.Machine.execFLenLong len s
  | .fExtTx sub payload => Sys2Proof.Machine.execFExtTx sub payload s
  | .fExtRx sub payload => Sys2Proof.Machine.execFExtRx sub payload s
  | .fMuxDelim => Sys2Proof.Machine.execFMuxDelim s
  | .fMuxFrame topic payload => Sys2Proof.Machine.execFMuxFrame topic payload s
  | .fCobsBlock data => Sys2Proof.Machine.execFCobsBlock data s
  | .cmdExt => Sys2Proof.Machine.execCmdExt s
  | .ack => Sys2Proof.Machine.execAck s
  | .subFtInit payload checks => Sys2Proof.Machine.execSubFtInit payload checks s
  | .subFtComplete payload checks => Sys2Proof.Machine.execSubFtComplete payload checks s
  | .subFtWrite payload checks => Sys2Proof.Machine.execSubFtWrite payload checks s
  | .subFtRead payload checks => Sys2Proof.Machine.execSubFtRead payload checks s
  | .subFtSetLink payload checks => Sys2Proof.Machine.execSubFtSetLink payload checks s
  | .subDirCount payload checks => Sys2Proof.Machine.execSubDirCount payload checks s
  | .subDirEntry payload checks => Sys2Proof.Machine.execSubDirEntry payload checks s
  | .subExecFile payload checks => Sys2Proof.Machine.execSubExecFile payload checks s
  | .subFileMetaGet payload checks => Sys2Proof.Machine.execSubFileMetaGet payload checks s
  | .subFileMetaSet payload checks => Sys2Proof.Machine.execSubFileMetaSet payload checks s
  | .subFileErase payload checks => Sys2Proof.Machine.execSubFileErase payload checks s
  | .subSlotGet payload checks => Sys2Proof.Machine.execSubSlotGet payload checks s
  | .subSysStatus payload checks => Sys2Proof.Machine.execSubSysStatus payload checks s
  | .subScreenCapInit payload checks => Sys2Proof.Machine.execSubScreenCapInit payload checks s
  | .subOther sub payload checks => Sys2Proof.Machine.execSubOther sub payload checks s
  | .nackGeneral => Sys2Proof.Machine.execNackGeneral s
  | .nackCrcError => Sys2Proof.Machine.execNackCrcError s
  | .nackPayloadTooSmall => Sys2Proof.Machine.execNackPayloadTooSmall s
  | .nackRequestTooLarge => Sys2Proof.Machine.execNackRequestTooLarge s
  | .nackProgramCrcError => Sys2Proof.Machine.execNackProgramCrcError s
  | .nackProgramFileError => Sys2Proof.Machine.execNackProgramFileError s
  | .nackUninitializedTransfer => Sys2Proof.Machine.execNackUninitializedTransfer s
  | .nackInvalidInitForFunction => Sys2Proof.Machine.execNackInvalidInitForFunction s
  | .nackDataNotMultipleOf4 => Sys2Proof.Machine.execNackDataNotMultipleOf4 s
  | .nackAddressMismatch => Sys2Proof.Machine.execNackAddressMismatch s
  | .nackLengthMismatch => Sys2Proof.Machine.execNackLengthMismatch s
  | .nackDirectoryEntryMissing => Sys2Proof.Machine.execNackDirectoryEntryMissing s
  | .nackMaxFilesReached => Sys2Proof.Machine.execNackMaxFilesReached s
  | .nackFileExists => Sys2Proof.Machine.execNackFileExists s
  | .nackOther b => Sys2Proof.Machine.execNackOther b s

end Sys2Proof.Machine
end

