-- ==== Sys2Proof/Machine/Fetch.lean ====
section
/-! DEFINITION. Taking the next instruction from the operation port (log 1, 3). -/

namespace Sys2Proof.Machine

/-- The next instruction at the port, and the state with its bytes taken. -/
def fetch (s : State) : Except DecodeError (Instr × State) :=
  match decode s.params s.port with
  | .ok (i, rest) => .ok (i, { s with port := rest })
  | .error e => .error e

/-- The state with these bytes at the port. -/
def State.withPort (bytes : Bytes) (s : State) : State := { s with port := bytes }

end Sys2Proof.Machine
end

