-- ==== Sys2Proof/Machine/Step.lean ====
section
/-! DEFINITION. One step of the machine. -/

namespace Sys2Proof.Machine

/-- One step: on a destroyed channel no operation may be invoked (70_reset_and_hazards R265); a reset that the host has asked
for is carried out first (R261; log 38); with nothing at the port the operations that wait go on with what the channel holds;
else the next instruction at the port is carried out. -/
def step (s : State) : Host.Outcome State Fault Refusal :=
  if s.chan.alive = false then .fault .channelDestroyed
  else if s.resetAsked then .next s.blockReset
  else if s.port = [] then .next s.settle
  else match fetch s with
    | .ok (i, s') => exec i s'
    | .error e => .refused (.undecodable e)

/-- The state with a word of the opcode table, every bit above it zero, as the next instruction at the port, and no reset in
front of it. Log 3. -/
def State.withFetchWord (s : State) (nbits w : Nat) : State := { s.withPort (tableWordBytes nbits w) with resetAsked := false }

end Sys2Proof.Machine
end

