-- ==== Sys2Proof/Machine/Device.lean ====
section
/-! DEFINITION. The host agent's device state machines (44_host_protocols R198 to R203). The primary device's state is held in
the session and in `State.querying` (log 31); the legacy device's operations are in DeviceUnit.lean. -/

namespace Sys2Proof.Machine

/-- The primary device's states (44_host_protocols R198). -/
inductive PrimaryState where
  | idle | querying | transferring
deriving DecidableEq, Repr

/-- The primary device's state (44_host_protocols R198): `Transferring` while a File Transfer Session exists, else `Querying` or
`Idle` as the host's record has it (log 31; which errors end a session: log 20). -/
def State.primary (s : State) : PrimaryState :=
  if s.ft.isSome then .transferring else if s.querying then .querying else .idle

/-- The orderings of a program upload, both kept (44_host_protocols R199, 93 U18). -/
inductive UploadOrder where
  | stopThenWrite | writeThenReplace
deriving DecidableEq, Repr

/-- Program upload: the binary, then its descriptor, each a whole session in the retry wrapper, and in the stop-then-write
ordering an execute/stop command before them (44_host_protocols R199, R203). The list is what the host invokes, in this order;
the spec does not say what becomes of the rest when one of them ends with an error, and nothing in the list makes a later one
depend on it. DESIGN CHOICE, log 40. -/
def programUpload (order : UploadOrder) (stop : Bytes) (stopChecks : Checks) (binary descriptor : UploadArgs) : List Instr :=
  (match order with
    | .stopThenWrite => [.retry (.command 0x18 stop stopChecks) ⟨Config.retryMax, .classify⟩]
    | .writeThenReplace => []) ++
  [.retry (.upload binary) ⟨Config.retryMax, .classify⟩, .retry (.upload descriptor) ⟨Config.retryMax, .classify⟩]

end Sys2Proof.Machine
end

