-- ==== Sys2Proof/Safety.lean ====
section
/-! DEFINITION. What claims call a good state: the invariants of the block, in the terms of spec/. -/

namespace Sys2Proof.Machine

/-- The bytes of `sp.raw` begin as the field already received says (10_state R24, 41_simple_packet R104 to R109). -/
def Framer.prefixed (f : Framer) (n : Nat) : Bool :=
  decide (f.raw.length = n) && f.raw.take 3 == ([Config.sync0, Config.sync1, f.cmd] : Bytes).take n

/-- The registers of the framer agree with its state: what `sp.raw` holds in each state, the size of the length field, and
`sp.cnt < sp.len` while the payload comes in (10_state R23, R24, 30_encoding R65). -/
def Framer.ok (f : Framer) : Bool :=
  match f.st with
  | .idle => true
  | .hunt0 => f.prefixed 0
  | .hunt1 => f.prefixed 1
  | .cmd => f.prefixed 2
  | .len0 => f.prefixed 3
  | .len1 => f.prefixed 4 && twoLengthBytes f.cmd (f.raw.getD 3 0) && f.len == lenHigh (f.raw.getD 3 0)
  | .payload =>
    f.prefixed (f.hlen.toNat + f.cnt.toNat) && decide (f.cnt.toNat < f.len.toNat) &&
      ((f.hlen == 4 && !twoLengthBytes f.cmd (f.raw.getD 3 0) && f.len == (f.raw.getD 3 0).setWidth 15) ||
        (f.hlen == 5 && twoLengthBytes f.cmd (f.raw.getD 3 0) && f.len == lenTwo (f.raw.getD 3 0) (f.raw.getD 4 0)))

/-- The subscription set is in its one form: strictly rising, so no tag twice. -/
def rising : List Topic → Bool
  | [] => true
  | [_] => true
  | a :: b :: ts => decide (a.key < b.key) && rising (b :: ts)

/-- The command is a program-write at this address. -/
def writesAt (address : Nat) : BootOp → Bool
  | .programWrite a _ => a == address
  | _ => false

/-- In `Programming`, which a program-write enters, there is a last address, and a last address is that of a program-write that
was sent (44_host_protocols R200). -/
def Legacy.ok (l : Legacy) : Bool :=
  (l.st != .programming || l.last.isSome) && l.last.all fun a => l.sent.any (writesAt a)

/-- The invariant of the block and of the operations in flight: the framer's registers agree with its state; an operation
waits for the framer exactly when the framer is not in `IDLE` (41_simple_packet R103); while an operation waits, no event
is left in the channel (00_scope R13); while a `MUX.READ` waits, it is not cancelled and its buffer holds no delimiter
(43_mux_stream R168); the subscription set is in its one form; the legacy device has a last address in
`Programming`, and it is one of a program-write that was sent (44_host_protocols R200);
the primary device is not in `Querying` while a session exists (R198); the parameters keep their
constraints (00_scope R9). -/
def State.inv (s : State) : Bool :=
  s.sp.ok && (s.task.isSome == (s.sp.st != .idle)) && (!s.waiting || s.chan.rx.isEmpty) &&
    (!s.reading || (!s.mux.cancel && !s.mux.buf.contains Config.muxDelim)) && rising s.mux.subs &&
    s.legacy.ok && (s.ft.isNone || !s.querying) && s.params.wf

/-- A run is finished when no operation waits (00_scope R13, 70_reset_and_hazards R271). -/
def State.finished (s : State) : Bool := !s.waiting && s.port.isEmpty

/-- The next state of an outcome. -/
def nextOf {σ φ ρ : Type} : Host.Outcome σ φ ρ → Option σ
  | .next s => some s
  | _ => none

/-- The next `n` writes to the channel are accepted: foretold as accepted, or not foretold (44_host_protocols R186, log 15). -/
def State.accepts (s : State) (n : Nat) : Bool := (s.chan.writes.take n).all fun a => a == .accepted

/-- Bytes as the events that bring them. -/
def byteEvents (bs : Bytes) : List Event := bs.map fun b => .chan (.byte b)

/-- The record that `SP.RX` returns for a packet of the format F-SPRX, in either form of its length field (30_encoding R65,
41_simple_packet R110). -/
def IsSprx (pk : Packet) : Prop :=
  (pk.payload.length < (if pk.cmd = 0x56 then 128 else 256) ∧ pk.hlen = 4 ∧
    pk.raw = [0xAA, 0x55, pk.cmd, BitVec.ofNat 8 pk.payload.length] ++ pk.payload) ∨
  (pk.cmd = 0x56 ∧ pk.payload.length ≤ 32767 ∧ pk.hlen = 5 ∧
    pk.raw = [0xAA, 0x55, 0x56, BitVec.ofNat 8 (128 + pk.payload.length / 256), BitVec.ofNat 8 (pk.payload.length % 256)] ++
      pk.payload)

/-- The instruction that is one run of a host operation, where the opcode table has a row for it. -/
def opInstr : HostOp → Option Instr
  | .xchg sub payload c => some (.extXchg sub payload c)
  | .init a => some (.ftInit a)
  | .write address data => some (.ftWrite address data)
  | .read address n c => some (.ftRead address n c)
  | .complete run => some (.ftComplete run)
  | .upload u => some (.ftUpload u)
  | .download d => some (.ftDownload d)
  | .command code payload c => some (subInstr code payload c)
  | .status _ _ => none
  | .boot _ => none

/-- The wire of a request; empty where `EXT.TX` yields none. -/
def wireOf (sub : Byte) (payload : Bytes) : Bytes :=
  match extTx sub payload with
  | .ok wire => wire
  | .error _ => []

/-- The bytes of a reply; empty where `REPLY` yields none. -/
def replyOf (p : Params) (sub : Byte) (payload : Bytes) : Bytes :=
  match extReply p sub payload with
  | .ok wire => wire
  | .error _ => []

/-- The reply payload that a caller's switches ask for, around the data `d`: the acknowledgment byte stands in front when it
is checked (42_extended_packet R124). -/
def acked (p : Params) (c : Checks) (d : Bytes) : Bytes := if c.ack then p.ackByte :: d else d

/-- `n` calls of `MUX.READ`, one after another. -/
def readTimes : Nat → State → Option State
  | 0, s => some s
  | n + 1, s =>
    match exec .muxRead s with
    | .next t => readTimes n t
    | _ => none

/-- Walking the code bytes of a raw frame from its first byte, some code byte points past the end (43_mux_stream R164 d).
`fuel` bounds the number of code bytes. -/
def overruns : (fuel : Nat) → Bytes → Bool
  | _, [] => false
  | 0, _ :: _ => true
  | fuel + 1, c :: rest => decide (rest.length < c.toNat - 1) || overruns fuel (rest.drop (c.toNat - 1))

end Sys2Proof.Machine
end

