-- ==== Sys2Proof/Certificates/Slice0/Obligations.lean ====
section
/-! DEFINITION. The statements for the provers, family by family. A next state is written as the record update that the
rules give, so each equation is also the instruction's frame: every field that is not named keeps its value. -/

open Sys2Proof Sys2Proof.Machine

/-! The CRC operations (40_crc). -/

/-- `CRC.BUILD` at a valid width hands over a table of 256 entries with the facts that 40_crc R87 derives from R86. -/
def Obligations.CrcBuildGivesLinearTable : Prop :=
  ∀ (w P : Nat) (s : State), 8 ≤ w → ∃ T : List (BitVec w),
    exec (.crcBuild w P) s =
      .next { s with reports := s.reports ++ [⟨.owner, .ok (.table w (T.map (·.toNat)))⟩] } ∧
    T.length = 256 ∧ T.getD 0 0 = 0 ∧ T.getD 1 0 = BitVec.ofNat w P ∧
    (∀ i j : Byte, T.getD (i ^^^ j).toNat 0 = T.getD i.toNat 0 ^^^ T.getD j.toNat 0) ∧
    (∀ i : Byte, crcUpd T 0 i = T.getD i.toNat 0)

/-- A width below 8 is refused, and nothing else changes (60_exceptions R220). -/
def Obligations.CrcBuildRefusesNarrowWidth : Prop :=
  ∀ (w P : Nat) (s : State), w < 8 →
    exec (.crcBuild w P) s = .next { s with reports := s.reports ++ [⟨.owner, .error (.invalidWidth w)⟩] }

/-- `CRC.UPD` is eight bit-serial steps on the byte (40_crc R88; that the forms agree is the spec's own inference R96). An
`acc` of `2^w` or more is taken modulo `2^w`, which the spec does not say (the model's choice, log 9). With a table of
another width it still completes, with some `w`-bit value (93_implementation_defined U1; the free value of log 9). No
`CRC.BUILD` need have run before (the model's choice, log 9). -/
def Obligations.CrcUpdIsEightShiftSteps : Prop :=
  ∀ (w : Nat) (t : TableRef) (acc : Nat) (b : Byte) (s : State), 8 ≤ w → 8 ≤ t.width → ∃ v : BitVec w,
    (t.width = w → v = crcBitwise (BitVec.ofNat w t.poly) [b] (BitVec.ofNat w acc)) ∧
    exec (.crcUpd w t acc b) s =
      .next { s with reports := s.reports ++ [⟨.owner, .ok (.checksum w v.toNat)⟩] }

/-- `CRC.COMPUTE` is the bit-serial computation (40_crc R89; that the forms agree is the spec's own inference R96). An
`initial` of `2^w` or more is taken modulo `2^w`, which the spec does not say (the model's choice, log 9). The working
register of the instance with this width and polynomial keeps the result (10_state R21; the model's reading, log 8). With a
table of another width it still completes, with some `w`-bit value (93_implementation_defined U1; the free value of log 9),
and no register keeps it. No `CRC.BUILD` need have run before (the model's choice, log 9). -/
def Obligations.CrcComputeIsBitSerial : Prop :=
  ∀ (w : Nat) (t : TableRef) (bytes : Bytes) (initial : Nat) (s : State), 8 ≤ w → 8 ≤ t.width → ∃ v : BitVec w,
    (t.width = w → v = crcBitwise (BitVec.ofNat w t.poly) bytes (BitVec.ofNat w initial)) ∧
    exec (.crcCompute w t bytes initial) s =
      .next { s with
        acc16 := if t.width = w ∧ w = 16 ∧ t.poly % 2 ^ 16 = 0x1021 then BitVec.ofNat 16 v.toNat else s.acc16
        acc32 := if t.width = w ∧ w = 32 ∧ t.poly % 2 ^ 32 = 0x04C11DB7 then BitVec.ofNat 32 v.toNat else s.acc32
        reports := s.reports ++ [⟨.owner, .ok (.checksum w v.toNat)⟩] }

/-- The two instances compute bit-serially with their polynomials (40_crc R90, R91) and keep the result in their working
registers (log 8). -/
def Obligations.CrcInstancesComputeBitSerially : Prop :=
  (∀ (bytes : Bytes) (initial : BitVec 16) (s : State), exec (.crc16Compute bytes initial) s =
    .next { s with
      acc16 := crcBitwise 0x1021#16 bytes initial
      reports := s.reports ++ [⟨.owner, .ok (.checksum 16 (crcBitwise 0x1021#16 bytes initial).toNat)⟩] }) ∧
  (∀ (bytes : Bytes) (initial : BitVec 32) (s : State), exec (.crc32Compute bytes initial) s =
    .next { s with
      acc32 := crcBitwise 0x04C11DB7#32 bytes initial
      reports := s.reports ++ [⟨.owner, .ok (.checksum 32 (crcBitwise 0x04C11DB7#32 bytes initial).toNat)⟩] })

/-- A sequence followed by its own checksum, high byte first, has checksum zero (the spec's own inference 40_crc R93, from
R88); with the bytes low first it need not. -/
def Obligations.CrcResidueIsZero : Prop :=
  (∀ (n : Nat) (P : BitVec (8 * n)) (bytes : Bytes) (initial : BitVec (8 * n)), 1 ≤ n →
    crcCompute (crcTable P) (bytes ++ beBytes n (crcCompute (crcTable P) bytes initial).toNat) initial = 0) ∧
  (∃ bytes : Bytes, crc16 (bytes ++ leBytes 2 (crc16 bytes 0).toNat) 0 ≠ 0)

/-! The simple packet (41_simple_packet). -/

/-- `SP.TX` (41_simple_packet R101). -/
def Obligations.SpTxPutsHeaderFirst : Prop :=
  ∀ (cmd : Byte) (payload : Bytes) (s : State), exec (.spTx cmd payload) s =
    .next { s with reports := s.reports ++ [⟨.owner, .ok (.bytes ([0xC9, 0x36, 0xB8, 0x47, cmd] ++ payload))⟩] }

/-- `SP.RX` and `EXT.RX` in `IDLE` arm the framer, and wait while the channel is empty (41_simple_packet R103, 00_scope R13);
the framer's errors reach their caller unchanged, before anything is decoded (42_extended_packet R125, 60_exceptions R211,
R212, R244). That the command, length and count registers keep their values then is the model's choice (10_state R23; log 4).
A session that exists is kept (the model's reading, log 20). The end of an `EXT.RX` takes the primary device out of
`Querying` (the model's reading, log 31). -/
def Obligations.ReceiveWaitsOrRaisesFramerErrors : Prop :=
  ∀ (sub : Byte) (c : Checks) (s : State), s.sp.st = .idle →
    (s.chan.rx = [] →
      exec .spRx s = .next { s with sp := { s.sp with st := .hunt0, raw := [] }, task := some [] } ∧
      exec (.extRx sub c) s =
        .next { s with sp := { s.sp with st := .hunt0, raw := [] }, task := some [.decode sub c] }) ∧
    (∀ (e : ChanEvent) (x : Err) (rest : List Event) (i : Instr), s.reading = false → s.chan.rx = .chan e :: rest →
      ((e = .timeout ∧ x = .frameSyncTimeout) ∨ (e = .fail ∧ x = .transport .channelFailure)) →
      (i = .spRx ∨ i = .extRx sub c) → exec i s = .next { s with
        sp := { s.sp with st := .idle, raw := [] }, task := none
        querying := if i = .spRx then s.querying else false, chan := { s.chan with rx := rest }
        reports := s.reports ++ [⟨.owner, .error x⟩] })

/-- `SP.RX` returns the packet that the channel holds, whatever its content, and takes nothing after it (41_simple_packet
R102, R110, R113): with a length field of one byte, and for the reserved command with one of two bytes at every length, also
below 128 (R108). What the command, length and count registers hold in `IDLE` is the model's choice (10_state R23; log 4). -/
def Obligations.SpRxReturnsThePacket : Prop :=
  ∀ (cmd : Byte) (payload raw : Bytes) (rest : List Event) (s : State), s.sp.st = .idle → s.reading = false →
    s.chan.rx = byteEvents raw ++ rest →
    (payload.length < (if cmd = 0x56 then 128 else 256) →
      raw = [0xAA, 0x55, cmd, BitVec.ofNat 8 payload.length] ++ payload →
      exec .spRx s = .next { s with
        sp := ⟨.idle, cmd, BitVec.ofNat 15 payload.length, BitVec.ofNat 15 payload.length, 4, raw⟩
        task := none
        chan := { s.chan with rx := rest }
        reports := s.reports ++ [⟨.owner, .ok (.packet ⟨cmd, payload, raw, 4⟩)⟩] }) ∧
    (payload.length ≤ 32767 →
      raw = [0xAA, 0x55, 0x56, BitVec.ofNat 8 (128 + payload.length / 256), BitVec.ofNat 8 (payload.length % 256)] ++
        payload →
      exec .spRx s = .next { s with
        sp := ⟨.idle, 0x56, BitVec.ofNat 15 payload.length, BitVec.ofNat 15 payload.length, 5, raw⟩
        task := none
        chan := { s.chan with rx := rest }
        reports := s.reports ++ [⟨.owner, .ok (.packet ⟨0x56, payload, raw, 5⟩)⟩] })

/-- Resynchronisation: bytes without `AA 55` that do not end in `AA` are skipped, and the packet after them is returned
whole, in both forms of its length field (the spec's own inference 41_simple_packet R114, from R104 to R110). What the command,
length and count registers hold in `IDLE` is the model's choice (10_state R23; log 4). -/
def Obligations.SpRxSkipsNoiseBeforeSync : Prop :=
  ∀ (g : Bytes) (cmd : Byte) (payload raw : Bytes) (rest : List Event) (s : State),
    ¬ [(0xAA : Byte), 0x55] <:+: g → g.getLast? ≠ some 0xAA → s.sp.st = .idle → s.reading = false →
    s.chan.rx = byteEvents (g ++ raw) ++ rest →
    (payload.length < (if cmd = 0x56 then 128 else 256) →
      raw = [0xAA, 0x55, cmd, BitVec.ofNat 8 payload.length] ++ payload →
      exec .spRx s = .next { s with
        sp := ⟨.idle, cmd, BitVec.ofNat 15 payload.length, BitVec.ofNat 15 payload.length, 4, raw⟩
        task := none
        chan := { s.chan with rx := rest }
        reports := s.reports ++ [⟨.owner, .ok (.packet ⟨cmd, payload, raw, 4⟩)⟩] }) ∧
    (payload.length ≤ 32767 →
      raw = [0xAA, 0x55, 0x56, BitVec.ofNat 8 (128 + payload.length / 256), BitVec.ofNat 8 (payload.length % 256)] ++
        payload →
      exec .spRx s = .next { s with
        sp := ⟨.idle, 0x56, BitVec.ofNat 15 payload.length, BitVec.ofNat 15 payload.length, 5, raw⟩
        task := none
        chan := { s.chan with rx := rest }
        reports := s.reports ++ [⟨.owner, .ok (.packet ⟨0x56, payload, raw, 5⟩)⟩] })

/-- While a receive is in progress, a second one and an exchange are refused with `Busy`, and nothing else changes
(41_simple_packet R117, 60_exceptions R223). -/
def Obligations.ReceiveInProgressIsBusy : Prop :=
  ∀ (sub : Byte) (payload : Bytes) (c : Checks) (s : State), s.sp.st ≠ .idle →
    exec .spRx s = .next { s with reports := s.reports ++ [⟨.owner, .error .busy⟩] } ∧
    exec (.extRx sub c) s = .next { s with reports := s.reports ++ [⟨.owner, .error .busy⟩] } ∧
    exec (.extXchg sub payload c) s = .next { s with reports := s.reports ++ [⟨.owner, .error .busy⟩] }

/-- The sync search, one byte (41_simple_packet R104, R105): a mismatch throws all progress away, and the mismatching byte is
not looked at again. That the command, length and count registers keep their values in the search is the model's choice
(10_state R23; log 4). -/
def Obligations.SpStepHuntsForSync : Prop :=
  ∀ (b : Byte) (s : State),
    (s.sp.st = .hunt0 → exec (.spStep (.byte b)) s =
      if b = 0xAA then .next { s with
        sp := { s.sp with st := .hunt1, raw := [0xAA] }, reports := s.reports ++ [⟨.owner, .ok (.framer .hunt1)⟩] }
      else .next { s with
        sp := { s.sp with st := .hunt0, raw := [] }, reports := s.reports ++ [⟨.owner, .ok (.framer .hunt0)⟩] }) ∧
    (s.sp.st = .hunt1 → exec (.spStep (.byte b)) s =
      if b = 0x55 then .next { s with
        sp := { s.sp with st := .cmd, raw := s.sp.raw ++ [0x55] }
        reports := s.reports ++ [⟨.owner, .ok (.framer .cmd)⟩] }
      else .next { s with
        sp := { s.sp with st := .hunt0, raw := [] }, reports := s.reports ++ [⟨.owner, .ok (.framer .hunt0)⟩] })

/-- The framer's step on a byte after the sync (41_simple_packet R106 to R109): the command latch, the length parser and the
payload buffer, up to the completion of R110. That the command, length and count registers keep their values in `IDLE` is the
model's choice (10_state R23; log 4). -/
def Obligations.FramerParsesHeaderAndPayload : Prop :=
  ∀ (f : Framer) (b : Byte),
    (f.st = .cmd → f.step (.byte b) = ({ f with cmd := b, raw := f.raw ++ [b], st := .len0 }, none)) ∧
    (f.st = .len0 → f.cmd = 0x56 → 128 ≤ b.toNat → f.step (.byte b) =
      ({ f with raw := f.raw ++ [b], len := BitVec.ofNat 15 ((b.toNat - 128) * 256), st := .len1 }, none)) ∧
    (f.st = .len0 → (f.cmd ≠ 0x56 ∨ b.toNat < 128) → b ≠ 0 → f.step (.byte b) =
      ({ f with raw := f.raw ++ [b], len := BitVec.ofNat 15 b.toNat, hlen := 4, cnt := 0, st := .payload }, none)) ∧
    (f.st = .len0 → b = 0 → f.step (.byte b) =
      ({ f with raw := f.raw ++ [0], len := 0, hlen := 4, cnt := 0, st := .idle },
        some (.ok ⟨f.cmd, [], f.raw ++ [0], 4⟩))) ∧
    (f.st = .len1 → f.len ||| b.setWidth 15 ≠ 0 → f.step (.byte b) =
      ({ f with raw := f.raw ++ [b], len := f.len ||| b.setWidth 15, hlen := 5, cnt := 0, st := .payload }, none)) ∧
    (f.st = .len1 → f.len ||| b.setWidth 15 = 0 → f.step (.byte b) =
      ({ f with raw := f.raw ++ [b], len := 0, hlen := 5, cnt := 0, st := .idle },
        some (.ok ⟨f.cmd, [], f.raw ++ [b], 5⟩))) ∧
    (f.st = .payload → f.cnt + 1 ≠ f.len → f.step (.byte b) =
      ({ f with raw := f.raw ++ [b], cnt := f.cnt + 1 }, none)) ∧
    (f.st = .payload → f.cnt + 1 = f.len → f.step (.byte b) =
      ({ f with raw := f.raw ++ [b], cnt := f.len, st := .idle },
        some (.ok ⟨f.cmd, ((f.raw ++ [b]).drop f.hlen.toNat).take f.len.toNat, f.raw ++ [b], f.hlen.toNat⟩)))

/-- `SP.STEP` outside `IDLE` completes: without an outcome it hands over the framer's next state; with one it hands over the
outcome, which an `SP.RX` that waits takes as its own (41_simple_packet R118; log 10). -/
def Obligations.SpStepCompletesOutsideIdle : Prop :=
  ∀ (e : ChanEvent) (s : State), s.sp.st ≠ .idle →
    ((s.sp.step e).2 = none → exec (.spStep e) s = .next { s with
      sp := (s.sp.step e).1, reports := s.reports ++ [⟨.owner, .ok (.framer (s.sp.step e).1.st)⟩] }) ∧
    (∀ p : Packet, (s.sp.step e).2 = some (.ok p) → s.task = some [] → exec (.spStep e) s = .next { s with
      sp := (s.sp.step e).1, task := none
      reports := s.reports ++ [⟨.owner, .ok (.packet p)⟩, ⟨.owner, .ok (.packet p)⟩] }) ∧
    (∀ x : Err, (s.sp.step e).2 = some (.error x) → s.task = some [] → exec (.spStep e) s = .next { s with
      sp := (s.sp.step e).1, task := none
      reports := s.reports ++ [⟨.owner, .error x⟩, ⟨.owner, .error x⟩] })

/-- The events `timeout` and `fail` end a receive (41_simple_packet R111, R112): which error, and what the framer's registers
are then. That the command, length and count registers keep their values is the model's choice (10_state R23; log 4). -/
def Obligations.FramerErrorsEndTheReceive : Prop :=
  ∀ f : Framer,
    ((f.st = .hunt0 ∨ f.st = .hunt1) →
      f.step .timeout = ({ f with st := .idle, raw := [] }, some (.error .frameSyncTimeout))) ∧
    ((f.st = .cmd ∨ f.st = .len0 ∨ f.st = .len1 ∨ f.st = .payload) →
      f.step .timeout = ({ f with st := .idle, raw := [] }, some (.error (.transport .shortRead)))) ∧
    (f.st ≠ .idle →
      f.step .fail = ({ f with st := .idle, raw := [] }, some (.error (.transport .channelFailure))))

/-- A framer whose registers agree with its state keeps doing so, and a packet it yields has its payload as the part of `raw`
after the header, begins with the sync and its command, and fits the buffer (41_simple_packet R110, R115, 10_state R24). -/
def Obligations.FramerKeepsItsRegistersInStep : Prop :=
  ∀ (f : Framer) (e : ChanEvent), f.ok = true → (f.step e).1.ok = true ∧
    (∀ p : Packet, (f.step e).2 = some (.ok p) →
      p.payload = p.raw.drop p.hlen ∧ p.raw.length = p.hlen + p.payload.length ∧ p.raw.length ≤ 32772 ∧
      p.raw.take 3 = [0xAA, 0x55, p.cmd])

/-! The extended packet (42_extended_packet). -/

/-- `EXT.LENENC` (42_extended_packet R121, 60_exceptions R219). -/
def Obligations.LengthEncodingHasItsBoundary : Prop :=
  ∀ (n : Nat) (s : State),
    (n < 128 → exec (.extLenEnc n) s =
      .next { s with reports := s.reports ++ [⟨.owner, .ok (.bytes [BitVec.ofNat 8 n])⟩] }) ∧
    (128 ≤ n → n ≤ 32767 → exec (.extLenEnc n) s = .next { s with reports := s.reports ++
      [⟨.owner, .ok (.bytes [BitVec.ofNat 8 (128 + n / 256), BitVec.ofNat 8 (n % 256)])⟩] }) ∧
    (32767 < n → exec (.extLenEnc n) s =
      .next { s with reports := s.reports ++ [⟨.owner, .error (.lengthOverflow n)⟩] })

/-- `EXT.LENDEC` (42_extended_packet R122), and that it undoes `EXT.LENENC` (the spec's own inference there). The last clause
holds for the fields that the rows `F-LEN.SHORT` and `F-LEN.LONG` spell (30_encoding R66; log 12). -/
def Obligations.LengthDecodingUndoesEncoding : Prop :=
  (∀ s : State, exec (.extLenDec []) s =
    .next { s with reports := s.reports ++ [⟨.owner, .error .unexpectedLength⟩] }) ∧
  (∀ (b : Byte) (rest : Bytes) (s : State), b.toNat < 128 → exec (.extLenDec (b :: rest)) s =
    .next { s with reports := s.reports ++ [⟨.owner, .ok (.length b.toNat 1)⟩] }) ∧
  (∀ (b : Byte) (s : State), 128 ≤ b.toNat → exec (.extLenDec [b]) s =
    .next { s with reports := s.reports ++ [⟨.owner, .error .unexpectedLength⟩] }) ∧
  (∀ (b c : Byte) (rest : Bytes) (s : State), 128 ≤ b.toNat → exec (.extLenDec (b :: c :: rest)) s =
    .next { s with reports := s.reports ++ [⟨.owner, .ok (.length ((b.toNat - 128) * 256 + c.toNat) 2)⟩] }) ∧
  (∀ (n : Nat) (enc t : Bytes), extLenEnc n = .ok enc → extLenDec (enc ++ t) = .ok (n, enc.length)) ∧
  (∀ (l : BitVec 7) (s : State), exec (.fLenShort l) s =
    .next { s with reports := s.reports ++ [⟨.owner, .ok (.length l.toNat 1)⟩] }) ∧
  (∀ (l : BitVec 15) (s : State), exec (.fLenLong l) s =
    .next { s with reports := s.reports ++ [⟨.owner, .ok (.length l.toNat 2)⟩] })

/-- `EXT.TX` (42_extended_packet R123): header, sub-command, length field, payload, and the CRC-16 of all that, high byte
first, computed bit by bit; a payload above 32767 bytes is refused (60_exceptions R219). -/
def Obligations.ExtTxAssemblesTheFrame : Prop :=
  ∀ (sub : Byte) (payload : Bytes) (s : State),
    (payload.length ≤ 32767 → ∃ lenEnc body : Bytes, ∃ crc : BitVec 16,
      extLenEnc payload.length = .ok lenEnc ∧
      body = [0xC9, 0x36, 0xB8, 0x47, 0x56, sub] ++ lenEnc ++ payload ∧
      crc = crcBitwise 0x1021#16 body 0 ∧
      exec (.extTx sub payload) s = .next { s with reports := s.reports ++
        [⟨.owner, .ok (.bytes (body ++ [(crc >>> 8).setWidth 8, crc.setWidth 8]))⟩] }) ∧
    (32767 < payload.length → exec (.extTx sub payload) s =
      .next { s with reports := s.reports ++ [⟨.owner, .error (.lengthOverflow payload.length)⟩] })

/-- Every frame of `EXT.TX`, and every reply that a device builds the same way, has CRC-16 zero (the spec's own inference
42_extended_packet R128, from R123 and 40_crc R93), and the record of a request's wire decodes to its payload (the spec's own
inference R127 a, from R121 to R124). -/
def Obligations.FramesCheckToZeroAndDecodeBack : Prop :=
  ∀ (p : Params) (sub : Byte) (payload wire : Bytes) (s : State),
    (extTx sub payload = .ok wire → crcBitwise 0x1021#16 wire 0 = 0) ∧
    (extReply p sub payload = .ok wire → crcBitwise 0x1021#16 wire 0 = 0) ∧
    (extTx sub payload = .ok wire → s.params.innerLen = true →
      exec (.extDecode ⟨wire.getD 4 0, wire.drop 5, wire, 5⟩ sub ⟨false, false, 0⟩) s =
        .next { s with reports := s.reports ++ [⟨.owner, .ok (.bytes payload)⟩] })

/-- `EXT.DECODE` tries its tests in their order, and the first failure ends it (42_extended_packet R124, 60_exceptions R240),
up to the length tests: what is reported in each case, with the CRC taken bit by bit. -/
def Obligations.ExtDecodeReportsTheFirstFailure : Prop :=
  ∀ (pk : Packet) (sub : Byte) (c : Checks) (s : State),
    (pk.cmd ≠ 0x56 → exec (.extDecode pk sub c) s =
      .next { s with reports := s.reports ++ [⟨.owner, .error (.unexpectedCommand pk.cmd)⟩] }) ∧
    (pk.cmd = 0x56 → crcBitwise 0x1021#16 pk.raw 0 ≠ 0 → exec (.extDecode pk sub c) s =
      .next { s with reports := s.reports ++ [⟨.owner, .error .checksumMismatch⟩] }) ∧
    (pk.cmd = 0x56 → crcBitwise 0x1021#16 pk.raw 0 = 0 →
      pk.payload.length < (if s.params.innerLen then 4 else 3) → exec (.extDecode pk sub c) s =
      .next { s with reports := s.reports ++ [⟨.owner, .error .unexpectedLength⟩] }) ∧
    (∀ (b : Byte) (rest : Bytes), pk.cmd = 0x56 → crcBitwise 0x1021#16 pk.raw 0 = 0 → pk.payload = b :: rest →
      (if s.params.innerLen then 4 else 3) ≤ pk.payload.length → b ≠ sub → exec (.extDecode pk sub c) s =
      .next { s with reports := s.reports ++ [⟨.owner, .error (.unexpectedSubCommand b)⟩] })

/-- `EXT.DECODE` of a body whose length field accounts for it exactly (42_extended_packet R124 steps b to d): the ACK test,
then the exact-length test on what is left, then the payload; and of a body whose length field does not,
`UnexpectedLength`. -/
def Obligations.ExtDecodeChecksLengthThenAck : Prop :=
  ∀ (lenEnc body : Bytes) (sub t0 t1 : Byte) (n : Nat) (c : Checks) (s : State),
    s.params.innerLen = true → extLenEnc n = .ok lenEnc →
    ∀ pk : Packet, pk.cmd = 0x56 → pk.payload = [sub] ++ lenEnc ++ body ++ [t0, t1] →
    crcBitwise 0x1021#16 pk.raw 0 = 0 →
    (n ≠ body.length → exec (.extDecode pk sub c) s =
      .next { s with reports := s.reports ++ [⟨.owner, .error .unexpectedLength⟩] }) ∧
    (n = body.length → c.ack = true → body = [] → exec (.extDecode pk sub c) s =
      .next { s with reports := s.reports ++ [⟨.owner, .error (.unexpectedAck none)⟩] }) ∧
    (∀ (b : Byte) (rest : Bytes) (e : Err), n = body.length → c.ack = true → body = b :: rest →
      ackDecode s.params b = .error e → exec (.extDecode pk sub c) s =
      .next { s with reports := s.reports ++ [⟨.owner, .error e⟩] }) ∧
    (∀ d : Bytes, n = body.length → (nackOfByte s.params.ackByte).isNone → body = acked s.params c d →
      exec (.extDecode pk sub c) s = .next { s with reports := s.reports ++
        [⟨.owner, if c.len ∧ d.length ≠ c.expectedLen then .error .unexpectedLength else .ok (.bytes d)⟩] })

/-- Round trip of a reply: `EXT.RX` on the bytes that a device sends returns the data, with or without the inner length
field, with or without the ACK test, and takes exactly one packet from the channel (42_extended_packet R125; the spec's own
inference R127 b). It takes the primary device out of `Querying` (the model's reading, log 31). -/
def Obligations.ExtRxReturnsTheReply : Prop :=
  ∀ (sub : Byte) (c : Checks) (d : Bytes) (rest : List Event) (s : State),
    s.sp.st = .idle → s.reading = false → (nackOfByte s.params.ackByte).isNone →
    (acked s.params c d).length ≤ (if s.params.innerLen then 32762 else 32764) →
    (c.len = true → d.length = c.expectedLen) →
    s.chan.rx = byteEvents (replyOf s.params sub (acked s.params c d)) ++ rest →
    ∃ f : Framer, f.st = .idle ∧ f.raw = replyOf s.params sub (acked s.params c d) ∧
      exec (.extRx sub c) s = .next { s with
        sp := f, task := none, querying := false, chan := { s.chan with rx := rest }
        reports := s.reports ++ [⟨.owner, .ok (.bytes d)⟩] }

/-- `ACK.DECODE` (42_extended_packet R126, 60_exceptions R214, R215, R238): the fourteen catalogue bytes, the ACK byte, and
every other byte. -/
def Obligations.AckDecodeFollowsTheCatalogue : Prop :=
  ∀ catalogue : List (Byte × NackCode), catalogue =
      [(0xFF, .general), (0xCE, .crcError), (0xD0, .payloadTooSmall), (0xD1, .requestTooLarge),
       (0xD2, .programCrcError), (0xD3, .programFileError), (0xD4, .uninitializedTransfer),
       (0xD5, .invalidInitForFunction), (0xD6, .dataNotMultipleOf4), (0xD7, .addressMismatch),
       (0xD8, .lengthMismatch), (0xD9, .directoryEntryMissing), (0xDA, .maxFilesReached), (0xDB, .fileExists)] →
    ∀ s : State,
    (∀ e ∈ catalogue, exec (.ackDecode e.1) s =
      .next { s with reports := s.reports ++ [⟨.owner, .error (.deviceRejected e.2)⟩] }) ∧
    (∀ b : Byte, b ∉ catalogue.map Prod.fst → b = s.params.ackByte → exec (.ackDecode b) s =
      .next { s with reports := s.reports ++ [⟨.owner, .ok .ack⟩] }) ∧
    (∀ b : Byte, b ∉ catalogue.map Prod.fst → b ≠ s.params.ackByte → exec (.ackDecode b) s =
      .next { s with reports := s.reports ++ [⟨.owner, .error (.unexpectedAck (some b))⟩] })

/-- The rows of the acknowledgment byte (30_encoding R71, R76, 60_exceptions R224 to R238; log 12): each rejection code is
reported as `DeviceRejected` with that code, the ACK byte as `Ack`, any other byte as `UnexpectedAck`. -/
def Obligations.AckRowsReportTheirCode : Prop :=
  ∀ s : State,
    (∀ e ∈ ([(.nackGeneral, .general), (.nackCrcError, .crcError), (.nackPayloadTooSmall, .payloadTooSmall),
        (.nackRequestTooLarge, .requestTooLarge), (.nackProgramCrcError, .programCrcError),
        (.nackProgramFileError, .programFileError), (.nackUninitializedTransfer, .uninitializedTransfer),
        (.nackInvalidInitForFunction, .invalidInitForFunction), (.nackDataNotMultipleOf4, .dataNotMultipleOf4),
        (.nackAddressMismatch, .addressMismatch), (.nackLengthMismatch, .lengthMismatch),
        (.nackDirectoryEntryMissing, .directoryEntryMissing), (.nackMaxFilesReached, .maxFilesReached),
        (.nackFileExists, .fileExists)] : List (Instr × NackCode)),
      exec e.1 s = .next { s with reports := s.reports ++ [⟨.owner, .error (.deviceRejected e.2)⟩] }) ∧
    ((nackOfByte s.params.ackByte).isNone → exec .ack s =
      .next { s with reports := s.reports ++ [⟨.owner, .ok .ack⟩] }) ∧
    (∀ b : Byte, b ∉ ([0xFF, 0xCE, 0xD0, 0xD1, 0xD2, 0xD3, 0xD4, 0xD5, 0xD6, 0xD7, 0xD8, 0xD9, 0xDA, 0xDB] : Bytes) →
      b ≠ s.params.ackByte → exec (.nackOther b) s =
      .next { s with reports := s.reports ++ [⟨.owner, .error (.unexpectedAck (some b))⟩] })

/-! The stream (43_mux_stream). -/

/-- `COBS.ENCODE` gives bytes without a zero, of the length the rule bounds, and `COBS.DECODE` undoes it (43_mux_stream R163;
the laws are the spec's own inference R164 a, b). -/
def Obligations.CobsDecodeUndoesEncode : Prop :=
  ∀ (d : Bytes) (s : State), ∃ e : Bytes,
    exec (.cobsEncode d) s = .next { s with reports := s.reports ++ [⟨.owner, .ok (.bytes e)⟩] } ∧
    (0 : Byte) ∉ e ∧ 1 ≤ e.length ∧ e.length ≤ d.length + 1 + d.length / 254 ∧
    exec (.cobsDecode e) s = .next { s with reports := s.reports ++ [⟨.owner, .ok (.bytes d)⟩] }

/-- `COBS.DECODE` completes on every byte sequence: with at most `len(e) - 1` bytes, or with the outcome `Malformed`
(43_mux_stream R162; the bound is the spec's own inference R164 c); without a zero byte, the second exactly when a code byte
points past the end (the spec's own inference R164 d). -/
def Obligations.CobsDecodeIsTotal : Prop :=
  ∀ (e : Bytes) (s : State),
    (exec (.cobsDecode e) s = .next { s with reports := s.reports ++ [⟨.owner, .ok .malformed⟩] } ∨
      ∃ d : Bytes, d.length ≤ e.length - 1 ∧
        exec (.cobsDecode e) s = .next { s with reports := s.reports ++ [⟨.owner, .ok (.bytes d)⟩] }) ∧
    ((0 : Byte) ∉ e → (overruns e.length e = true ↔
      exec (.cobsDecode e) s = .next { s with reports := s.reports ++ [⟨.owner, .ok .malformed⟩] }))

/-- `MUX.SUB` and `MUX.UNSUB` with a tag of four bytes add it to the set and take it out, and `MUX.PROMISC` writes its flag
(43_mux_stream R165, R166, R167). -/
def Obligations.StreamControlsWriteTheirRegister : Prop :=
  ∀ (a b c d : Byte) (s : State),
    (∃ subs, (∀ u, u ∈ subs ↔ u ∈ s.mux.subs ∨ u = ⟨a, b, c, d⟩) ∧ exec (.muxSub [a, b, c, d]) s = .next { s with
      mux := { s.mux with subs := subs }, reports := s.reports ++ [⟨.reader, .ok .unit⟩] }) ∧
    (∃ subs, (∀ u, u ∈ subs ↔ u ∈ s.mux.subs ∧ u ≠ ⟨a, b, c, d⟩) ∧ exec (.muxUnsub [a, b, c, d]) s = .next { s with
      mux := { s.mux with subs := subs }, reports := s.reports ++ [⟨.reader, .ok .unit⟩] }) ∧
    (rising s.mux.subs = true → ⟨a, b, c, d⟩ ∈ s.mux.subs → exec (.muxSub [a, b, c, d]) s = .next { s with
      reports := s.reports ++ [⟨.reader, .ok .unit⟩] }) ∧
    (⟨a, b, c, d⟩ ∉ s.mux.subs → exec (.muxUnsub [a, b, c, d]) s = .next { s with
      reports := s.reports ++ [⟨.reader, .ok .unit⟩] }) ∧
    (∀ v : Bool, exec (.muxPromisc v) s = .next { s with
      mux := { s.mux with promisc := v }, reports := s.reports ++ [⟨.reader, .ok .unit⟩] })

/-- A tag that is not four bytes is refused, and the set is unchanged (60_exceptions R221). -/
def Obligations.SubscriptionRefusesOtherLengths : Prop :=
  ∀ (tag : Bytes) (s : State), tag.length ≠ 4 →
    exec (.muxSub tag) s = .next { s with reports := s.reports ++ [⟨.reader, .error (.invalidTopic tag)⟩] } ∧
    exec (.muxUnsub tag) s = .next { s with reports := s.reports ++ [⟨.reader, .error (.invalidTopic tag)⟩] }

/-- `MUX.READ` delivers a frame that the channel holds when it is promiscuous or subscribed to the topic, and takes nothing
after its delimiter; it discards a frame that is neither and goes on waiting (43_mux_stream R168, R169, R170). It skips a raw
frame that is malformed or too short for a topic, in promiscuous mode too, and reports nothing for it (R171, R172). -/
def Obligations.MuxReadFiltersByTopic : Prop :=
  ∀ (t : Topic) (payload : Bytes) (rest : List Event) (s : State),
    s.reading = false → s.task = none → s.mux.cancel = false → s.mux.buf = [] →
    ((s.mux.promisc = true ∨ t ∈ s.mux.subs) → s.chan.rx = byteEvents (muxFrame t payload) ++ rest →
      exec .muxRead s = .next { s with
        chan := { s.chan with rx := rest }, reports := s.reports ++ [⟨.reader, .ok (.frame t payload)⟩] }) ∧
    (s.mux.promisc = false → t ∉ s.mux.subs → s.chan.rx = byteEvents (muxFrame t payload) →
      exec .muxRead s = .next { s with chan := { s.chan with rx := [] }, reading := true }) ∧
    (∀ raw : Bytes, (0 : Byte) ∉ raw → (cobsDecode raw = none ∨ ∃ d, cobsDecode raw = some d ∧ d.length < 4) →
      s.chan.rx = byteEvents (raw ++ [0]) →
      exec .muxRead s = .next { s with chan := { s.chan with rx := [] }, reading := true })

/-- Frames are delivered in the order they arrive, each once, and only those that pass the filter (the spec's own inference
43_mux_stream R175, from R168 to R172). -/
def Obligations.MuxReadsDeliverInOrder : Prop :=
  ∀ (fs : List (Topic × Bytes)) (s : State),
    s.reading = false → s.task = none → s.mux.cancel = false → s.mux.buf = [] →
    s.chan.rx = byteEvents (fs.flatMap fun f => muxFrame f.1 f.2) →
    ∀ got : List (Topic × Bytes), got = fs.filter (fun f => s.mux.promisc || s.mux.subs.contains f.1) →
    ∃ rest, readTimes got.length s = some { s with
      chan := { s.chan with rx := rest }
      reports := s.reports ++ got.map fun f => ⟨.reader, .ok (.frame f.1 f.2)⟩ }

/-- Cancellation (60_exceptions R222, 43_mux_stream R174): a waiting `MUX.READ` ends with `Cancelled`, by the row `MUX.CANCEL`
and by the event in the place of a byte; a later one that must wait raises it at once; the flag is set and `mux.buf` is
kept; it is not retried. A complete frame that `mux.buf` already holds is handled before the flag is looked at and before
the channel is read (43_mux_stream R174 c, 60_exceptions R240). -/
def Obligations.CancelEndsTheWaitingRead : Prop :=
  (∀ s : State, s.reading = true → exec .muxCancel s = .next { s with
    mux := { s.mux with cancel := true }, reading := false
    reports := s.reports ++ [⟨.reader, .error .cancelled⟩] }) ∧
  (∀ s : State, s.reading = false → exec .muxCancel s = .next { s with mux := { s.mux with cancel := true } }) ∧
  (∀ (rest : List Event) (s : State), s.reading = false → s.task = none → s.mux.cancel = false → (0 : Byte) ∉ s.mux.buf →
    s.chan.rx = .cancel :: rest → exec .muxRead s = .next { s with
      mux := { s.mux with cancel := true }, chan := { s.chan with rx := rest }
      reports := s.reports ++ [⟨.reader, .error .cancelled⟩] }) ∧
  (∀ s : State, s.reading = false → s.task = none → s.mux.cancel = true → (0 : Byte) ∉ s.mux.buf →
    exec .muxRead s = .next { s with reports := s.reports ++ [⟨.reader, .error .cancelled⟩] }) ∧
  (∀ p : Params, classifyErr p .cancelled = false) ∧
  (∀ (t : Topic) (payload rest : Bytes) (s : State), s.reading = false → s.task = none →
    (s.mux.promisc = true ∨ t ∈ s.mux.subs) → s.mux.buf = muxFrame t payload ++ rest →
    exec .muxRead s = .next { s with
      mux := { s.mux with buf := rest }, reports := s.reports ++ [⟨.reader, .ok (.frame t payload)⟩] })

/-- The events `timeout` and `fail` while a `MUX.READ` waits (43_mux_stream R168, 60_exceptions R211): the first is ignored,
the second sets the cancel flag and raises `TransportError`. -/
def Obligations.MuxReadMeetsTimeoutAndFailure : Prop :=
  ∀ (rest : List Event) (n : Nat) (s : State),
    s.reading = false → s.task = none → s.mux.cancel = false → (0 : Byte) ∉ s.mux.buf →
    (s.chan.rx = List.replicate n (.chan .timeout) ++ .chan .fail :: rest → exec .muxRead s = .next { s with
      mux := { s.mux with cancel := true }, chan := { s.chan with rx := rest }
      reports := s.reports ++ [⟨.reader, .error (.transport .channelFailure)⟩] }) ∧
    (s.chan.rx = List.replicate n (.chan .timeout) → exec .muxRead s = .next { s with
      chan := { s.chan with rx := [] }, reading := true })

/-- `MUX.WRITE` is a passthrough (43_mux_stream R173), and the rows of the two transmit formats hand their packet to the
channel (30_encoding R64, R68; log 11), when the channel accepts: because an accepted write is foretold, which is used up, or
because none is foretold (log 15). It is so also while an exchange waits, where 70_reset_and_hazards R263 and R269 forbid the
host to write (the model's choice, log 41). -/
def Obligations.WritesReachTheChannel : Prop :=
  ∀ (bytes : Bytes) (cmd sub : Byte) (s : State), s.accepts 1 = true →
    exec (.muxWrite bytes) s = .next { s with
      chan := { s.chan with tx := s.chan.tx ++ bytes, writes := s.chan.writes.drop 1 }
      reports := s.reports ++ [⟨.writer, .ok .unit⟩] } ∧
    exec (.fSptxHeader cmd bytes) s = .next { s with
      chan := { s.chan with
        tx := s.chan.tx ++ ([0xC9, 0x36, 0xB8, 0x47, cmd] ++ bytes), writes := s.chan.writes.drop 1 }
      reports := s.reports ++ [⟨.owner, .ok .unit⟩] } ∧
    (∀ wire, extTx sub bytes = .ok wire → exec (.fExtTx sub bytes) s = .next { s with
      chan := { s.chan with tx := s.chan.tx ++ wire, writes := s.chan.writes.drop 1 }
      reports := s.reports ++ [⟨.owner, .ok .unit⟩] })

/-- A write that the channel fails is `TransportError` to the writer; an exchange whose request is lost so does not arm the
framer (60_exceptions R211 c, 42_extended_packet R129; log 15). A request of more than 32767 bytes is refused before anything
is written (60_exceptions R219, R240). The plain exchange keeps a session that exists (the model's reading, log 20), and a
write is carried out also while an exchange waits (the model's choice, log 41). When the exchange ends the primary device
leaves `Querying` (the model's reading, log 31). -/
def Obligations.LostAndOverlongRequestsRaise : Prop :=
  ∀ (bytes : Bytes) (sub : Byte) (c : Checks) (n : Nat) (ws : List WriteAnswer) (s : State),
    (s.chan.writes = .failed n :: ws → exec (.muxWrite bytes) s = .next { s with
      chan := { s.chan with tx := s.chan.tx ++ bytes.take n, writes := ws }
      reports := s.reports ++ [⟨.writer, .error (.transport .channelFailure)⟩] }) ∧
    (32767 < bytes.length → s.sp.st = .idle → exec (.extXchg sub bytes c) s = .next { s with
      reports := s.reports ++ [⟨.owner, .error (.lengthOverflow bytes.length)⟩] }) ∧
    (32767 < bytes.length → exec (.fExtTx sub bytes) s = .next { s with
      reports := s.reports ++ [⟨.owner, .error (.lengthOverflow bytes.length)⟩] }) ∧
    (∀ wire, s.chan.writes = .failed n :: ws → s.sp.st = .idle → extTx sub bytes = .ok wire →
      exec (.extXchg sub bytes c) s = .next { s with
      querying := false, chan := { s.chan with tx := s.chan.tx ++ wire.take n, writes := ws }
      reports := s.reports ++ [⟨.owner, .error (.transport .channelFailure)⟩] })

/-! The wire-format rows of the device's direction (log 11). -/

/-- With nothing waiting, the bytes of a device's packet stay in the channel, in order (41_simple_packet R103, 10_state R33 a;
the formats 30_encoding R65, R69, R72, R73, R74). -/
def Obligations.ArrivalsStayInTheChannel : Prop :=
  ∀ (cmd sub : Byte) (payload wire : Bytes) (t : Topic) (s : State), s.reading = false → s.task = none →
    (payload.length < (if cmd = 0x56 then 128 else 256) → exec (.fSprxShort cmd payload) s = .next { s with
      chan := { s.chan with rx := (s.chan.rx ++
        byteEvents ([0xAA, 0x55, cmd, BitVec.ofNat 8 payload.length] ++ payload)) } }) ∧
    (payload.length ≤ 32767 → exec (.fSprxLong payload) s = .next { s with
      chan := { s.chan with rx := (s.chan.rx ++ byteEvents ([0xAA, 0x55, 0x56,
        BitVec.ofNat 8 (128 + payload.length / 256), BitVec.ofNat 8 (payload.length % 256)] ++ payload)) } }) ∧
    (extReply s.params sub payload = .ok wire → exec (.fExtRx sub payload) s = .next { s with
      chan := { s.chan with rx := s.chan.rx ++ byteEvents wire } }) ∧
    exec .fMuxDelim s = .next { s with chan := { s.chan with rx := s.chan.rx ++ [.chan (.byte 0)] } } ∧
    exec (.fMuxFrame t payload) s = .next { s with
      chan := { s.chan with rx := s.chan.rx ++ byteEvents (muxFrame t payload) } } ∧
    (payload.length ≤ 254 → (0 : Byte) ∉ payload → exec (.fCobsBlock payload) s = .next { s with
      chan := { s.chan with rx := s.chan.rx ++ byteEvents (BitVec.ofNat 8 (payload.length + 1) :: payload) } }) ∧
    exec .cmdExt s = .next { s with chan := { s.chan with rx := s.chan.rx ++ [.chan (.byte 0x56)] } }

/-- A packet that arrives while an operation waits in `HUNT0` with an empty channel ends that operation with it: `SP.RX` with
the packet, `EXT.RX` with the reply's data, `MUX.READ` with the frame (00_scope R13, 41_simple_packet R110,
42_extended_packet R125, 43_mux_stream R168). The reply takes the primary device out of `Querying` (the model's reading, log
31). -/
def Obligations.ArrivalsEndTheWait : Prop :=
  ∀ (cmd sub : Byte) (c : Checks) (payload : Bytes) (t : Topic) (s : State), s.chan.rx = [] →
    (s.sp.st = .hunt0 → s.task = some [] → s.reading = false →
      payload.length < (if cmd = 0x56 then 128 else 256) →
      ∀ raw : Bytes, raw = [0xAA, 0x55, cmd, BitVec.ofNat 8 payload.length] ++ payload →
      ∃ f : Framer, f.st = .idle ∧ exec (.fSprxShort cmd payload) s = .next { s with
        sp := f, task := none, reports := s.reports ++ [⟨.owner, .ok (.packet ⟨cmd, payload, raw, 4⟩)⟩] }) ∧
    (s.sp.st = .hunt0 → s.task = some [.decode sub c] → s.reading = false →
      (nackOfByte s.params.ackByte).isNone →
      (acked s.params c payload).length ≤ (if s.params.innerLen then 32762 else 32764) →
      (c.len = true → payload.length = c.expectedLen) →
      ∃ f : Framer, f.st = .idle ∧ exec (.fExtRx sub (acked s.params c payload)) s = .next { s with
        sp := f, task := none, querying := false, reports := s.reports ++ [⟨.owner, .ok (.bytes payload)⟩] }) ∧
    (s.reading = true → s.task = none → s.mux.cancel = false → s.mux.buf = [] →
      (s.mux.promisc = true ∨ t ∈ s.mux.subs) → exec (.fMuxFrame t payload) s = .next { s with
        reading := false, reports := s.reports ++ [⟨.reader, .ok (.frame t payload)⟩] })

/-! The exchange and its sub-commands (42_extended_packet R129 to R145). -/

/-- `EXT.XCHG` and each sub-command row write the whole request and wait for the reply, the framer armed (42_extended_packet
R129, R130; log 13); the status query will keep its reply (44_host_protocols R198; log 25). While the exchange is in flight
the primary device is in `Querying`, unless a session exists (R198; the model's reading, log 31). The named sub-commands are
the primary device's (R202; log 37). That the command, length and count registers keep their values in `HUNT0` is the model's
choice (10_state R23; log 4). -/
def Obligations.ExchangesWriteTheirRequest : Prop :=
  ∀ (payload wire : Bytes) (c : Checks) (s t : State), s.sp.st = .idle → s.accepts 1 = true → s.chan.rx = [] →
    (∀ sub : Byte, ∀ i ∈ ([.extXchg sub payload c, .subOther sub payload c] : List Instr),
      extTx sub payload = .ok wire → t = { s with
        sp := { s.sp with st := .hunt0, raw := [] }, querying := s.ft.isNone, task := some [.decode sub c]
        chan := { s.chan with tx := s.chan.tx ++ wire, writes := s.chan.writes.drop 1 } } →
      exec i s = .next t ∧ (s.ft = none → t.primary = .querying)) ∧
    (s.device = .primary → ∀ e ∈ ([(0x11, .subFtInit payload c), (0x12, .subFtComplete payload c),
        (0x13, .subFtWrite payload c), (0x14, .subFtRead payload c), (0x15, .subFtSetLink payload c),
        (0x16, .subDirCount payload c), (0x17, .subDirEntry payload c), (0x18, .subExecFile payload c),
        (0x19, .subFileMetaGet payload c), (0x1A, .subFileMetaSet payload c), (0x1B, .subFileErase payload c),
        (0x1C, .subSlotGet payload c), (0x28, .subScreenCapInit payload c)] : List (Byte × Instr)),
      extTx e.1 payload = .ok wire → t = { s with
        sp := { s.sp with st := .hunt0, raw := [] }, querying := s.ft.isNone, task := some [.decode e.1 c]
        chan := { s.chan with tx := s.chan.tx ++ wire, writes := s.chan.writes.drop 1 } } →
      exec e.2 s = .next t ∧ (s.ft = none → t.primary = .querying)) ∧
    (s.device = .primary → extTx 0x22 payload = .ok wire → t = { s with
        sp := { s.sp with st := .hunt0, raw := [] }, querying := s.ft.isNone, task := some [.decode 0x22 c, .keepStatus]
        chan := { s.chan with tx := s.chan.tx ++ wire, writes := s.chan.writes.drop 1 } } →
      exec (.subSysStatus payload c) s = .next t ∧ (s.ft = none → t.primary = .querying))

/-- A whole exchange: the request goes out in one piece, the reply that follows in the channel is decoded, its data is
returned, and the bytes after it stay (42_extended_packet R129); the status query keeps its reply as the snapshot. The status
operation issues the query when no snapshot is there, and answers from the snapshot, with nothing on the wire, when one is
(44_host_protocols R198; log 25). The attempt counter is written for an attempt that waits only, so the snapshot's answer
leaves it (the model's choice, log 5). When the exchange ends the primary device leaves `Querying` (the model's reading, log
31). -/
def Obligations.ExchangeReturnsTheReply : Prop :=
  ∀ (sub : Byte) (payload d kept : Bytes) (c : Checks) (policy : RetryPolicy) (rest : List Event) (s : State),
    s.sp.st = .idle → s.reading = false → s.accepts 1 = true → (nackOfByte s.params.ackByte).isNone →
    payload.length ≤ 32767 → (acked s.params c d).length ≤ (if s.params.innerLen then 32762 else 32764) →
    (c.len = true → d.length = c.expectedLen) → 1 ≤ policy.max →
    (s.chan.rx = byteEvents (replyOf s.params sub (acked s.params c d)) ++ rest →
      ∃ f : Framer, f.st = .idle ∧ exec (.extXchg sub payload c) s = .next { s with
        sp := f, task := none, querying := false
        chan := { s.chan with
          rx := rest, tx := s.chan.tx ++ wireOf sub payload, writes := s.chan.writes.drop 1 }
        reports := s.reports ++ [⟨.owner, .ok (.bytes d)⟩] }) ∧
    (s.device = .primary → s.chan.rx = byteEvents (replyOf s.params 0x22 (acked s.params c d)) ++ rest →
      ∃ f : Framer, f.st = .idle ∧ ∀ t : State, t = { s with
          sp := f, task := none, querying := false
          chan := { s.chan with
            rx := rest, tx := s.chan.tx ++ wireOf 0x22 payload, writes := s.chan.writes.drop 1 }
          snapshot := some d, reports := s.reports ++ [⟨.owner, .ok (.bytes d)⟩] } →
        exec (.subSysStatus payload c) s = .next t ∧
        (s.snapshot = none → exec (.retry (.status payload c) policy) s = .next { t with attempt := 1 })) ∧
    (s.device = .primary → s.snapshot = some kept → exec (.retry (.status payload c) policy) s =
      .next { s with reports := s.reports ++ [⟨.owner, .ok (.bytes kept)⟩] })

/-! The host agent (44_host_protocols). -/

/-- `FT.INIT` (44_host_protocols R187, R188, R194): the request carries the first 24 bytes of the name; an acknowledged reply
of the length the layout asks for opens the session with the reply's fields and the operands, and the primary device is in
`Transferring` (R198); one that allots less than the requested length ends it with `UnexpectedLength`, and the device is in
`Idle`. The layouts are the model's form of what the source leaves open (log 7, 34), and a field past the reply's end has the
bytes that are there (log 39). The flag `overwrite` is 1 or 0 in them (log 7). What enters and leaves `Querying` is the
model's reading (log 31). -/
def Obligations.FtInitOpensTheSession : Prop :=
  ∀ (a : InitArgs) (q request : Bytes) (rest : List Event) (s : State), ∀ l : Layouts, l = s.params.layouts →
    request = initPayload l { a with name := a.name.take 24 } → s.device = .primary →
    s.sp.st = .idle → s.reading = false → s.accepts 1 = true → (nackOfByte s.params.ackByte).isNone →
    request.length ≤ 32767 → q.length = l.initReplyLen → q.length < 32762 →
    s.chan.rx = byteEvents (replyOf s.params 0x11 (s.params.ackByte :: q)) ++ rest →
    ∃ f : Framer, f.st = .idle ∧ ∃ t : State, exec (.ftInit a) s = .next t ∧
      if sliceNat q l.fileSize < a.length then
        t = { s with
          sp := f, task := none, querying := false, ft := none
          chan := { s.chan with
            rx := rest, tx := s.chan.tx ++ wireOf 0x11 request, writes := s.chan.writes.drop 1 }
          reports := s.reports ++ [⟨.owner, .error .unexpectedLength⟩] } ∧ t.primary = .idle
      else
        t = { s with
          sp := f, task := none, querying := false
          ft := some ⟨sliceNat q l.maxPacketSize, sliceNat q l.fileSize, sliceNat q l.deviceCrc, a.address, a.length,
            a.crc⟩
          chan := { s.chan with
            rx := rest, tx := s.chan.tx ++ wireOf 0x11 request, writes := s.chan.writes.drop 1 }
          reports := s.reports ++ [⟨.owner, .ok (.session (sliceNat q l.maxPacketSize) (sliceNat q l.fileSize)
            (sliceNat q l.deviceCrc))⟩] } ∧ t.primary = .transferring

/-- `FT.WRITE` (44_host_protocols R189): the data goes out padded to a multiple of 4, and after the acknowledgment the next
chunk's address is the one after this chunk (R187; the model's reading, log 21). A session need not exist (the model's choice,
log 42), and the layout's form is the model's (log 7, 34). When the exchange ends the primary device leaves `Querying` (the
model's reading, log 31). -/
def Obligations.FtWritePadsAndAdvances : Prop :=
  ∀ (address : Nat) (data request : Bytes) (rest : List Event) (s : State),
    request = layOut s.params.layouts.write { int := [(.address, address)], blob :=
      [(.data, data ++ List.replicate ((4 - data.length % 4) % 4) s.params.padByte)] } → s.device = .primary →
    s.sp.st = .idle → s.reading = false → s.accepts 1 = true → (nackOfByte s.params.ackByte).isNone →
    request.length ≤ 32767 → s.chan.rx = byteEvents (replyOf s.params 0x13 [s.params.ackByte]) ++ rest →
    ∃ f : Framer, f.st = .idle ∧ exec (.ftWrite address data) s = .next { s with
      sp := f, task := none, querying := false, ft := s.ft.map fun x => { x with address := address + data.length }
      chan := { s.chan with
        rx := rest, tx := s.chan.tx ++ wireOf 0x13 request, writes := s.chan.writes.drop 1 }
      reports := s.reports ++ [⟨.owner, .ok .unit⟩] }

/-- `FT.READ` (44_host_protocols R190): it asks for the size rounded up to a multiple of 4 and returns the reply's data
trimmed to the size wanted; of a reply that holds less, what is there (the model's choice, log 39). The address advance is the
model's reading (log 21), the reply switches as operands its choice (log 22). A session need not exist (the model's choice,
log 42), and the layout's form is the model's (log 7, 34). When the exchange ends the primary device leaves `Querying` (the
model's reading, log 31). -/
def Obligations.FtReadRoundsAndTrims : Prop :=
  ∀ (address n : Nat) (c : Checks) (d request : Bytes) (rest : List Event) (s : State),
    request = layOut s.params.layouts.read { int := [(.address, address), (.size, (n + 3) / 4 * 4)], blob := [] } →
    s.device = .primary → s.sp.st = .idle → s.reading = false → s.accepts 1 = true → (nackOfByte s.params.ackByte).isNone →
    request.length ≤ 32767 → (acked s.params c d).length ≤ (if s.params.innerLen then 32762 else 32764) →
    (c.len = true → d.length = c.expectedLen) →
    s.chan.rx = byteEvents (replyOf s.params 0x14 (acked s.params c d)) ++ rest →
    ∃ f : Framer, f.st = .idle ∧ exec (.ftRead address n c) s = .next { s with
      sp := f, task := none, querying := false, ft := s.ft.map fun x => { x with address := address + n }
      chan := { s.chan with
        rx := rest, tx := s.chan.tx ++ wireOf 0x14 request, writes := s.chan.writes.drop 1 }
      reports := s.reports ++ [⟨.owner, .ok (.bytes ((d.drop s.params.layouts.readSkip).take n))⟩] }

/-- `FT.COMPLETE` (44_host_protocols R191, R187): the acknowledged completion exchange discards the session, and the primary
device is in `Idle` (R198). A session need not exist (the model's choice, log 42), the layout's form is the model's (log 7,
34), and so is the reading of the device's state (log 31). -/
def Obligations.FtCompleteDiscardsTheSession : Prop :=
  ∀ (run : RunOption) (request : Bytes) (rest : List Event) (s : State),
    request = completePayload s.params.layouts run → s.device = .primary →
    s.sp.st = .idle → s.reading = false → s.accepts 1 = true → (nackOfByte s.params.ackByte).isNone →
    request.length ≤ 32767 → s.chan.rx = byteEvents (replyOf s.params 0x12 [s.params.ackByte]) ++ rest →
    ∃ f : Framer, f.st = .idle ∧ ∃ t : State, exec (.ftComplete run) s = .next t ∧ t = { s with
      sp := f, task := none, querying := false, ft := none
      chan := { s.chan with
        rx := rest, tx := s.chan.tx ++ wireOf 0x12 request, writes := s.chan.writes.drop 1 }
      reports := s.reports ++ [⟨.owner, .ok .unit⟩] } ∧ t.primary = .idle

/-- Any error of a session's operation goes to the caller unchanged and discards the session (44_host_protocols R195, R187;
for a refusal too: the model's reading, log 20): `Busy`, `LengthOverflow`, a lost request, the channel's time-out and failure
before the sync and inside a packet, whatever `EXT.DECODE` raises for a packet that arrives, and a rejection by the device.
The request is laid out with the flag `overwrite` as 1 or 0 (the model's choice, log 7). The layouts' form is the model's (log
7, 34), a session need not exist (the model's choice, log 42), and how much of a lost request went out the channel's answer
says (the model's choice, log 15). What enters and leaves `Querying` is the model's reading (log 31). -/
def Obligations.FtErrorsDiscardTheSession : Prop :=
  ∀ (i : Instr) (sub : Byte) (request : Bytes) (a : InitArgs) (address n : Nat) (data : Bytes) (run : RunOption)
    (c : Checks) (s : State), ∀ p : Params, p = s.params → s.device = .primary →
    ((i = .ftInit a ∧ sub = 0x11 ∧ request = initPayload p.layouts a ∧ c = ⟨true, true, p.layouts.initReplyLen⟩) ∨
      (i = .ftWrite address data ∧ sub = 0x13 ∧ request = writePayload p address data ∧ c = ⟨true, false, 0⟩) ∨
      (i = .ftRead address n c ∧ sub = 0x14 ∧ request = readPayload p.layouts address n) ∨
      (i = .ftComplete run ∧ sub = 0x12 ∧ request = completePayload p.layouts run ∧ c = ⟨true, false, 0⟩)) →
    (s.sp.st ≠ .idle → exec i s = .next { s with
      ft := none, reports := s.reports ++ [⟨.owner, .error .busy⟩] }) ∧
    (s.sp.st = .idle → 32767 < request.length → exec i s = .next { s with
      ft := none, reports := s.reports ++ [⟨.owner, .error (.lengthOverflow request.length)⟩] }) ∧
    (∀ (k : Nat) (ws : List WriteAnswer), s.sp.st = .idle → request.length ≤ 32767 →
      s.chan.writes = .failed k :: ws → exec i s = .next { s with
        ft := none, querying := false, chan := { s.chan with tx := s.chan.tx ++ (wireOf sub request).take k, writes := ws }
        reports := s.reports ++ [⟨.owner, .error (.transport .channelFailure)⟩] }) ∧
    (∀ (pk : Packet) (k : Nat) (code : NackCode) (x : Err) (es rest : List Event), s.sp.st = .idle → s.reading = false →
      s.accepts 1 = true → request.length ≤ 32767 →
      ((es = [.chan .timeout] ∧ x = .frameSyncTimeout) ∨
        (es = [.chan .fail] ∧ x = .transport .channelFailure) ∨
        (IsSprx pk ∧ 2 ≤ k ∧ k < pk.raw.length ∧ es = byteEvents (pk.raw.take k) ++ [.chan .timeout] ∧
          x = .transport .shortRead) ∨
        (IsSprx pk ∧ k < pk.raw.length ∧ es = byteEvents (pk.raw.take k) ++ [.chan .fail] ∧
          x = .transport .channelFailure) ∨
        (IsSprx pk ∧ extDecode p pk sub c = .error x ∧ es = byteEvents pk.raw) ∨
        (c.ack = true ∧ es = byteEvents (replyOf p sub [code.byte]) ∧ x = .deviceRejected code)) →
      s.chan.rx = es ++ rest →
      ∃ f : Framer, f.st = .idle ∧ ∃ t : State, exec i s = .next t ∧ t = { s with
        sp := f, task := none, querying := false, ft := none
        chan := { s.chan with
          rx := rest, tx := s.chan.tx ++ wireOf sub request, writes := s.chan.writes.drop 1 }
        reports := s.reports ++ [⟨.owner, .error x⟩] } ∧ t.primary = .idle)

/-- The chunks of a payload are the payload; each but the last has the chunk size, the last has the rest (44_host_protocols
R193, R194). -/
def Obligations.ChunksCoverThePayload : Prop :=
  ∀ (payload : Bytes) (m : Nat), 0 < m →
    (List.range (chunkCount payload.length m)).flatMap (chunkAt payload m) = payload ∧
    (∀ i, i + 1 < chunkCount payload.length m → (chunkAt payload m i).length = m) ∧
    (∀ i, i + 1 = chunkCount payload.length m → (chunkAt payload m i).length = payload.length - m * i) ∧
    (∀ i, (chunkAt payload m i).length = chunkSize payload.length m i)

/-- `FT.UPLOAD`, a whole session that the device acknowledges step by step (44_host_protocols R192, R193, R204): one
initialize request with the payload's CRC-32, each chunk's request in order, one completion, and nothing else on the wire. The
chunk size need not be within the reply's `max_packet_size`, though R193 has the caller choose it so (the model's choice, log
33), and `acc32` keeps the CRC-32 (the model's reading, log 8). A reply field past the reply's end has the bytes that are
there (log 39). The flag `overwrite` is 1 or 0 in the initialize request, and the layouts' form is the model's (log 7, 34).
When the exchange ends the primary device leaves `Querying` (the model's reading, log 31). -/
def Obligations.FtUploadSendsEveryChunkInOrder : Prop :=
  ∀ (u : UploadArgs) (q : Bytes) (rest : List Event) (s : State), ∀ p : Params, p = s.params →
    ∀ n : Nat, n = (u.payload.length + u.chunk - 1) / u.chunk →
    ∀ chunkRequest : Nat → Bytes, (chunkRequest = fun i =>
      writePayload p (u.address + i * u.chunk) ((u.payload.drop (i * u.chunk)).take u.chunk)) →
    ∀ start : Bytes, start = initPayload p.layouts ⟨u.name, .upload, u.target, u.volume, u.payload.length, u.address,
      crcBitwise 0x04C11DB7#32 u.payload 0, u.overwrite, u.typeTag, u.timestamp, u.version⟩ →
    0 < u.chunk → s.device = .primary → s.sp.st = .idle → s.reading = false → s.accepts (n + 2) = true →
    (nackOfByte p.ackByte).isNone →
    q.length = p.layouts.initReplyLen → q.length < 32762 → u.payload.length ≤ sliceNat q p.layouts.fileSize →
    start.length ≤ 32767 → (∀ i < n, (chunkRequest i).length ≤ 32767) →
    (completePayload p.layouts u.run).length ≤ 32767 →
    s.chan.rx = byteEvents (replyOf p 0x11 (p.ackByte :: q) ++
      (List.replicate n (replyOf p 0x13 [p.ackByte])).flatten ++ replyOf p 0x12 [p.ackByte]) ++ rest →
    ∃ f : Framer, f.st = .idle ∧ exec (.ftUpload u) s = .next { s with
      acc32 := crcBitwise 0x04C11DB7#32 u.payload 0, sp := f, task := none, querying := false, ft := none
      chan := { s.chan with rx := rest, tx := s.chan.tx ++ (wireOf 0x11 start ++
        (List.range n).flatMap (fun i => wireOf 0x13 (chunkRequest i)) ++
        wireOf 0x12 (completePayload p.layouts u.run)), writes := s.chan.writes.drop (n + 2) }
      reports := s.reports ++ [⟨.owner, .ok .unit⟩] }

/-- `FT.DOWNLOAD`, a whole session (44_host_protocols R193, R204): the initialize request carries CRC 0, each chunk is asked
for in order, the result is the chunks' data one after another, and the completion says not to run. The chunk size need not be
within the reply's `max_packet_size`, though R193 has the caller choose it so (the model's choice, log 33), and the reply
switches of its `FT.READ`s are operands (the model's choice, log 22). A reply with less data than was asked for counts as it
is (the model's choice, log 39). The switches are the same for every chunk, the shorter last one too (the model's choice, log
22), the flag `overwrite` is 1 or 0, and the layouts' form is the model's (log 7, 34). When the exchange ends the primary
device leaves `Querying` (the model's reading, log 31). -/
def Obligations.FtDownloadJoinsTheChunks : Prop :=
  ∀ (d : DownloadArgs) (q : Bytes) (block : Nat → Bytes) (rest : List Event) (s : State), ∀ p : Params, p = s.params →
    ∀ n : Nat, n = (d.length + d.chunk - 1) / d.chunk →
    ∀ size : Nat → Nat, (size = fun i => min d.chunk (d.length - i * d.chunk)) →
    ∀ chunkRequest : Nat → Bytes, (chunkRequest = fun i =>
      readPayload p.layouts (d.address + i * d.chunk) (size i)) →
    ∀ start : Bytes, start = initPayload p.layouts ⟨d.name, .download, d.target, d.volume, d.length, d.address, 0,
      d.overwrite, d.typeTag, d.timestamp, d.version⟩ →
    0 < d.chunk → s.device = .primary → s.sp.st = .idle → s.reading = false → s.accepts (n + 2) = true →
    (nackOfByte p.ackByte).isNone →
    q.length = p.layouts.initReplyLen → q.length < 32762 → d.length ≤ sliceNat q p.layouts.fileSize →
    start.length ≤ 32767 → (∀ i < n, (chunkRequest i).length ≤ 32767) →
    (∀ i < n, (acked p d.checks (block i)).length ≤ (if p.innerLen then 32762 else 32764) ∧
      (d.checks.len = true → (block i).length = d.checks.expectedLen)) →
    (completePayload p.layouts .dontRun).length ≤ 32767 →
    s.chan.rx = byteEvents (replyOf p 0x11 (p.ackByte :: q) ++
      (List.range n).flatMap (fun i => replyOf p 0x14 (acked p d.checks (block i))) ++
      replyOf p 0x12 [p.ackByte]) ++ rest →
    ∃ f : Framer, f.st = .idle ∧ exec (.ftDownload d) s = .next { s with
      sp := f, task := none, querying := false, ft := none
      chan := { s.chan with rx := rest, tx := s.chan.tx ++ (wireOf 0x11 start ++
        (List.range n).flatMap (fun i => wireOf 0x14 (chunkRequest i)) ++
        wireOf 0x12 (completePayload p.layouts .dontRun)), writes := s.chan.writes.drop (n + 2) }
      reports := s.reports ++ [⟨.owner, .ok (.bytes ((List.range n).flatMap fun i =>
        ((block i).drop p.layouts.readSkip).take (size i)))⟩] }

/-- `RETRY` (44_host_protocols R196), with any choice of retryable errors (log 35). Of an exchange: it succeeds on attempt `k
+ 1` after `k` time-outs, the whole request sent each time; it raises the error once the attempts are used up; it does not
repeat after an error that is not retried. Of any operation, file transfers and legacy operations among them: when one attempt
ends with a result, or with an error that is not retried, more attempts allowed change nothing; when it ends with an error
that is retried, the rest is `RETRY` from the state that the attempt leaves, with one attempt less, and the error is reported
no more, so the error raised is the last one (said where that rest ends without another wait). One attempt is the operation
itself, but for the attempt counter (10_state R34; the model's field, log 5). That the framer's command, length and count
registers keep their values in `IDLE` is the model's choice (10_state R23; log 4). The plain exchange's errors keep a session
that exists (the model's reading, log 20). A single `FT.WRITE`, `FT.READ` or `FT.COMPLETE` is repeated as that one exchange,
without a new session (the model's choice, log 42). When the exchange ends the primary device leaves `Querying` (the model's
reading, log 31). -/
def Obligations.RetryRepeatsTheWholeOperation : Prop :=
  (∀ (sub : Byte) (payload d : Bytes) (c : Checks) (policy : RetryPolicy) (k : Nat) (rest : List Event) (s : State),
    s.sp.st = .idle → s.reading = false → (nackOfByte s.params.ackByte).isNone →
    payload.length ≤ 32767 → (acked s.params c d).length ≤ (if s.params.innerLen then 32762 else 32764) →
    (c.len = true → d.length = c.expectedLen) → k < policy.max →
    retries s.params policy.retryable .frameSyncTimeout = true →
    (s.accepts (k + 1) = true → s.chan.rx = List.replicate k (.chan .timeout) ++
        byteEvents (replyOf s.params sub (acked s.params c d)) ++ rest →
      ∃ f : Framer, f.st = .idle ∧ exec (.retry (.xchg sub payload c) policy) s = .next { s with
        sp := f, task := none, querying := false, attempt := k + 1
        chan := { s.chan with
          rx := rest, tx := s.chan.tx ++ (List.replicate (k + 1) (wireOf sub payload)).flatten
          writes := s.chan.writes.drop (k + 1) }
        reports := s.reports ++ [⟨.owner, .ok (.bytes d)⟩] }) ∧
    (s.accepts policy.max = true → s.chan.rx = List.replicate policy.max (.chan .timeout) ++ rest →
      exec (.retry (.xchg sub payload c) policy) s = .next { s with
        sp := { s.sp with st := .idle, raw := [] }, task := none, querying := false, attempt := policy.max
        chan := { s.chan with
          rx := rest, tx := s.chan.tx ++ (List.replicate policy.max (wireOf sub payload)).flatten
          writes := s.chan.writes.drop policy.max }
        reports := s.reports ++ [⟨.owner, .error .frameSyncTimeout⟩] }) ∧
    (s.accepts (k + 1) = true → retries s.params policy.retryable (.transport .channelFailure) = false →
      s.chan.rx = List.replicate k (.chan .timeout) ++ .chan .fail :: rest →
      exec (.retry (.xchg sub payload c) policy) s = .next { s with
        sp := { s.sp with st := .idle, raw := [] }, task := none, querying := false, attempt := k + 1
        chan := { s.chan with
          rx := rest, tx := s.chan.tx ++ (List.replicate (k + 1) (wireOf sub payload)).flatten
          writes := s.chan.writes.drop (k + 1) }
        reports := s.reports ++ [⟨.owner, .error (.transport .channelFailure)⟩] })) ∧
  (∀ (op : HostOp) (choice : Retryable) (r : Res) (s t : State),
    s.sp.st = .idle → s.reading = false → s.task = none → exec (.retry op ⟨1, choice⟩) s = .next t → t.task = none →
    t.reports = s.reports ++ [⟨.owner, r⟩] →
    (∀ n : Nat, (∀ e, r = .error e → retries s.params choice e = false) →
      exec (.retry op ⟨n + 1, choice⟩) s = .next t) ∧
    (∀ (e : Err) (n : Nat) (u : State), r = .error e → retries s.params choice e = true →
      exec (.retry op ⟨n + 1, choice⟩) { t with reports := s.reports } = .next u → u.task = none →
      ∃ a : Nat, exec (.retry op ⟨n + 2, choice⟩) s = .next { u with attempt := a })) ∧
  (∀ (op : HostOp) (i : Instr) (choice : Retryable) (s t : State),
    s.sp.st = .idle → s.reading = false → s.task = none → opInstr op = some i → exec i s = .next t → t.task = none →
    ∃ a : Nat, exec (.retry op ⟨1, choice⟩) s = .next { t with attempt := a })

/-- `CLASSIFY` (44_host_protocols R197): which errors are retried; a rejection by its code, and by the spec's default only
`General`, `CrcError` and `ProgramCrcError`; `FileExists` is not retried, whatever the set that the parameters may hold. -/
def Obligations.ClassifyFollowsTheTable : Prop :=
  ∀ s : State,
    (∀ e : Err, (e = .frameSyncTimeout ∨ e = .checksumMismatch ∨ (∃ b, e = .unexpectedAck b) ∨ e = .unexpectedLength ∨
        (∃ b, e = .unexpectedCommand b) ∨ ∃ b, e = .unexpectedSubCommand b) →
      exec (.classify e) s = .next { s with reports := s.reports ++ [⟨.owner, .ok (.retried true)⟩] }) ∧
    (∀ e : Err, ((∃ r, e = .transport r) ∨ e = .cancelled ∨ (∃ n, e = .lengthOverflow n) ∨ (∃ n, e = .invalidWidth n) ∨
        (∃ t, e = .invalidTopic t) ∨ e = .busy) →
      exec (.classify e) s = .next { s with reports := s.reports ++ [⟨.owner, .ok (.retried false)⟩] }) ∧
    (∀ code : NackCode, exec (.classify (.deviceRejected code)) s =
      .next { s with reports := s.reports ++ [⟨.owner, .ok (.retried (s.params.nackTransient.contains code))⟩] }) ∧
    (s.params.wf = true → exec (.classify (.deviceRejected .fileExists)) s =
      .next { s with reports := s.reports ++ [⟨.owner, .ok (.retried false)⟩] }) ∧
    (∀ code : NackCode, code ∈ State.reset.params.nackTransient ↔
      code = .general ∨ code = .crcError ∨ code = .programCrcError)

/-- Cases outside the rules stop by name: `RETRY` with no attempt (44_host_protocols R196, 93 U6), a chunk size of 0 (R193),
a table that no `CRC.BUILD` gives (70_reset_and_hazards R266), a frame its length field cannot announce, a program-write of
more than 256 bytes (R200); the decoder gives none of these (log 23). `SP.STEP` is not defined in `IDLE` (41_simple_packet
R118; log 14), and a second `MUX.READ` while one waits is outside the rules (70_reset_and_hazards R263, 93 U3; log 18). An
operation of the other kind of device is refused (44_host_protocols R202, 93 U9; log 37). -/
def Obligations.CasesOutsideTheRulesStopByName : Prop :=
  ∀ (op : HostOp) (choice : Retryable) (policy : RetryPolicy) (u : UploadArgs) (d : DownloadArgs) (w : Nat) (t : TableRef)
    (b sub : Byte) (bytes : Bytes) (n : Nat) (a : InitArgs) (c : Checks) (run : RunOption) (boot : BootOp) (s : State),
    (∀ e : ChanEvent, s.sp.st = .idle → exec (.spStep e) s = .fault .stepInIdle) ∧
    (s.reading = true → exec .muxRead s = .refused .concurrentRead) ∧
    exec (.retry op ⟨0, choice⟩) s = .refused .retryMaxZero ∧
    (u.chunk = 0 → exec (.ftUpload u) s = .refused .chunkSizeZero) ∧
    (d.chunk = 0 → exec (.ftDownload d) s = .refused .chunkSizeZero) ∧
    ((w < 8 ∨ t.width < 8) → exec (.crcUpd w t n b) s = .refused .tableNeverBuilt ∧
      exec (.crcCompute w t bytes n) s = .refused .tableNeverBuilt) ∧
    (256 ≤ bytes.length → exec (.fSprxShort b bytes) s = .refused .unframable) ∧
    (32767 < bytes.length → exec (.fSprxLong bytes) s = .refused .unframable ∧
      exec (.fExtRx sub bytes) s = .refused .unframable) ∧
    ((254 < bytes.length ∨ (0 : Byte) ∈ bytes) → exec (.fCobsBlock bytes) s = .refused .unframable) ∧
    (s.device = .legacy → 0 < u.chunk → 0 < d.chunk →
      ∀ i ∈ ([.ftInit a, .ftWrite n bytes, .ftRead n w c, .ftComplete run, .ftUpload u, .ftDownload d,
        .subFtInit bytes c, .subFtComplete bytes c, .subFtWrite bytes c, .subFtRead bytes c, .subFtSetLink bytes c,
        .subDirCount bytes c, .subDirEntry bytes c, .subExecFile bytes c, .subFileMetaGet bytes c,
        .subFileMetaSet bytes c, .subFileErase bytes c, .subSlotGet bytes c, .subSysStatus bytes c,
        .subScreenCapInit bytes c] : List Instr), exec i s = .refused .outsideCapabilities) ∧
    (0 < policy.max →
      (s.device = .primary → exec (.retry (.boot boot) policy) s = .refused .outsideCapabilities) ∧
      (s.device = .legacy → exec (.retry (.status bytes c) policy) s = .refused .outsideCapabilities) ∧
      (s.device = .legacy → 256 < bytes.length →
        exec (.retry (.boot (.programWrite n bytes)) policy) s = .refused .bootWriteTooLong))

/-- The legacy device's chain (44_host_protocols R200, R201). An operation in order that succeeds keeps the state or takes it
to the next one of the chain, and to the state that the operation enters; the four arrows are there, and no arrow leaves
`Jumped` (that a handshake, an erase and a write may be repeated in their state is the model's, log 26). What an operation in
order does, as the device answers: it is sent once and moves the chain on when the device does it; an error goes to the
caller unchanged and leaves the chain, also of a jump (60_exceptions R242); without an acknowledgment a jump moves the chain
on (R201), any other operation ends with the bare time-out (the model's choice, log 36); the handshake is sent again after a
failure, up to its bound (the answers and the bound are free, log 36). Nothing of the block takes part. No attempt waits, so
the attempt counter is left as it was (the model's choice, log 5). An operation of the block that waits goes on waiting (log
41). An operation that the chain has no arrow for, and a program-write whose address does not increase, are carried out: the
spec states no result for them, so the result and, without an arrow, whether the record goes on to the state that the
operation enters are free values; the record never goes back (the model's choice, log 26). -/
def Obligations.LegacyDeviceFollowsItsChain : Prop :=
  (∀ (l l' : LegacyState) (op : BootOp), l.after op = some l' →
    (l' = l ∨ (l, l') ∈ ([(.unknown, .negotiated), (.negotiated, .erased), (.erased, .programming),
      (.programming, .jumped)] : List (LegacyState × LegacyState))) ∧
    ((op = .handshake ∧ l' = .negotiated) ∨ (∃ w, op = .erase w ∧ l' = .erased) ∨
      (∃ a d, op = .programWrite a d ∧ l' = .programming) ∨ (∃ a, op = .jump a ∧ l = .programming ∧ l' = .jumped))) ∧
  (∀ (w : EraseScope) (a : Nat) (d : Bytes), LegacyState.unknown.after .handshake = some .negotiated ∧
    LegacyState.negotiated.after (.erase w) = some .erased ∧
    LegacyState.erased.after (.programWrite a d) = some .programming ∧
    LegacyState.programming.after (.programWrite a d) = some .programming ∧
    LegacyState.programming.after (.jump a) = some .jumped) ∧
  (∀ op : BootOp, LegacyState.jumped.after op = none) ∧
  (∀ (op : BootOp) (policy : RetryPolicy) (l' : LegacyState) (as : List BootAnswer) (s : State), s.device = .legacy →
    1 ≤ policy.max → s.legacy.st.after op = some l' →
    (∀ a d, op = .programWrite a d → d.length ≤ 256 ∧ ∀ last, s.legacy.last = some last → last < a) →
    ∀ moved : Legacy, moved = { s.legacy with
      st := l', last := (match op with | .programWrite a _ => some a | _ => s.legacy.last)
      sent := s.legacy.sent ++ [op], answers := as } →
    (s.legacy.answers = .done :: as → exec (.retry (.boot op) policy) s = .next { s with
      legacy := moved, reports := s.reports ++ [⟨.owner, .ok .unit⟩] }) ∧
    (∀ a : Nat, op = .jump a → s.legacy.answers = .silent :: as →
      exec (.retry (.boot op) policy) s = .next { s with
        legacy := moved, reports := s.reports ++ [⟨.owner, .ok .unit⟩] }) ∧
    (∀ e : Err, op ≠ .handshake → (policy.max = 1 ∨ retries s.params policy.retryable e = false) →
      (s.legacy.answers = .failed e :: as ∨
        (s.legacy.answers = .silent :: as ∧ e = .frameSyncTimeout ∧ ∀ a, op ≠ .jump a)) →
      exec (.retry (.boot op) policy) s = .next { s with
        legacy := { s.legacy with sent := s.legacy.sent ++ [op], answers := as }
        reports := s.reports ++ [⟨.owner, .error e⟩] }) ∧
    (∀ lost : List BootAnswer, op = .handshake → .done ∉ lost → lost.length ≤ s.params.bootExtraTries →
      s.legacy.answers = lost ++ .done :: as → exec (.retry (.boot op) policy) s = .next { s with
        legacy := { s.legacy with
          st := .negotiated, sent := s.legacy.sent ++ List.replicate (lost.length + 1) .handshake, answers := as }
        reports := s.reports ++ [⟨.owner, .ok .unit⟩] }) ∧
    (∀ (lost : List BootAnswer) (last : BootAnswer) (e : Err), op = .handshake → .done ∉ lost →
      (policy.max = 1 ∨ retries s.params policy.retryable e = false) → lost.length = s.params.bootExtraTries →
      (last = .failed e ∨ (last = .silent ∧ e = .frameSyncTimeout)) →
      s.legacy.answers = lost ++ last :: as → exec (.retry (.boot op) policy) s = .next { s with
        legacy := { s.legacy with
          sent := s.legacy.sent ++ List.replicate (lost.length + 1) .handshake, answers := as }
        reports := s.reports ++ [⟨.owner, .error e⟩] })) ∧
  (∀ (op : BootOp) (policy : RetryPolicy) (s : State), s.device = .legacy → 1 ≤ policy.max →
    (∀ a d, op = .programWrite a d → d.length ≤ 256) →
    (s.legacy.st.after op = none ∨ ∃ a d last, op = .programWrite a d ∧ s.legacy.last = some last ∧ a ≤ last) →
    ∃ (k : Nat) (r : Res) (st : LegacyState) (last : Option Nat),
      1 ≤ k ∧ k ≤ policy.max * (s.params.bootExtraTries + 1) ∧ (op ≠ .handshake → k ≤ policy.max) ∧
      exec (.retry (.boot op) policy) s = .next { s with
        legacy := ⟨st, last, s.legacy.sent ++ List.replicate k op, s.legacy.answers, s.legacy.asked + k⟩
        reports := s.reports ++ [⟨.owner, r⟩] } ∧
      ((r = .ok .unit ∧ last = (match op with | .programWrite a _ => some a | _ => s.legacy.last) ∧
          (s.legacy.st.after op = some st ∨ (s.legacy.st.after op = none ∧ (st = s.legacy.st ∨
            (s.legacy.st.rank < st.rank ∧ st = (match op with
              | .handshake => .negotiated | .erase _ => .erased
              | .programWrite _ _ => .programming | .jump _ => .jumped)))))) ∨
        (∃ e, r = .error e ∧ st = s.legacy.st ∧ last = s.legacy.last)))

/-! The machine. -/

/-- When the port's bytes decode to an instruction and no reset is asked for, the step is that instruction, the port moved past
its bytes. -/
def Obligations.StepRunsTheDecodedInstruction : Prop :=
  ∀ (s : State) (i : Instr) (rest : Bytes), s.chan.alive = true → s.resetAsked = false → s.port ≠ [] →
    decode s.params s.port = .ok (i, rest) → i.wellFormed s.params = true ∧ step s = exec i { s with port := rest }

/-- The other steps. A reset that the host has asked for gives every register of the block its reset value, abandons the
operations in progress without a result, and leaves the channel and the host's state, the primary device's among it, alone
(70_reset_and_hazards R261, 10_state R35; how it is asked for is the model's, log 38). With an empty port the waiting
operations go on, or nothing happens when none waits; bytes that encode no instruction are turned away; on a destroyed
channel the machine stops (70_reset_and_hazards R265, 93 U4; log 17). -/
def Obligations.StepWithoutAnInstruction : Prop :=
  (∀ s : State, s.chan.alive = true → s.resetAsked = true → ∃ f : Framer, f.st = .idle ∧ f.raw = [] ∧
    step s = .next { s with
      acc16 := 0, acc32 := 0, sp := f, mux := ⟨[], [], false, false⟩, task := none, reading := false
      resetAsked := false } ∧ ∀ t, step s = .next t → t.primary = s.primary) ∧
  (∀ s : State, s.chan.alive = true → s.resetAsked = false → s.port = [] → s.waiting = false → step s = .next s) ∧
  (∀ s : State, s.chan.alive = true → s.resetAsked = false → s.port = [] →
    ∃ t, step s = .next t ∧ (t.waiting = false ∨ t.chan.rx = [])) ∧
  (∀ (s : State) (e : DecodeError), s.chan.alive = true → s.resetAsked = false → s.port ≠ [] →
    decode s.params s.port = .error e → step s = .refused (.undecodable e)) ∧
  (∀ s : State, s.chan.alive = false → step s = .fault .channelDestroyed)

/-- A few words of the spec's encodings decode to what they stand for: the selectors 6 and 21 of 30_encoding R80, the packet
`AA 55 21 02 10 20` of 41_simple_packet R102, the length fields `7F` and `80 C8` of 42_extended_packet R121, the block
`03 11 22` of 43_mux_stream R162, the bytes `D9` and `76` of R126. -/
def Obligations.WrittenOutWordsDecode : Prop :=
  ∀ p : Params, p = Params.default →
    decode p [0, 6] = .ok (.spRx, []) ∧ decode p [0, 21] = .ok (.muxCancel, []) ∧
    decode p [2, 0xAA, 0x55, 0x21, 0x02, 0x10, 0x20] = .ok (.fSprxShort 0x21 [0x10, 0x20], []) ∧
    decode p [3, 0x7F] = .ok (.fLenShort 127, []) ∧ decode p [3, 0x80, 0xC8] = .ok (.fLenLong 200, []) ∧
    decode p [7, 0x03, 0x11, 0x22] = .ok (.fCobsBlock [0x11, 0x22], []) ∧
    decode p [9, 0xD9] = .ok (.nackDirectoryEntryMissing, []) ∧ decode p [9, 0x76] = .ok (.ack, []) ∧
    decode p [0, 31] = .error .reservedSelector ∧ decode p [11] = .error (.noSpace 11)

/-- Decoding undoes encoding, for every well-formed instruction of every family, whatever follows it at the port. -/
def Obligations.DecodeUndoesEncode : Prop :=
  ∀ (p : Params) (i : Instr) (rest : Bytes), i.wellFormed p = true → decode p (encode p i ++ rest) = .ok (i, rest)

/-- The block's state right after reset (10_state R35), with the two constant tables. -/
def Obligations.ResetLeavesTheTablesValues : Prop :=
  State.reset.acc16 = 0 ∧ State.reset.acc32 = 0 ∧ State.reset.sp.st = .idle ∧ State.reset.sp.raw = [] ∧
    State.reset.mux.buf = [] ∧ State.reset.mux.subs = [] ∧ State.reset.mux.promisc = false ∧
    State.reset.mux.cancel = false ∧ crcBuild 16 0x1021 = .ok T16 ∧ crcBuild 32 0x04C11DB7 = .ok T32

/-- The invariant of the block and of the operations in flight holds after reset. -/
def Obligations.InvariantHoldsAtReset : Prop := State.reset.inv = true

/-- Every step from a state with the invariant keeps it: the framer's registers agree with its state, an operation waits for
the framer exactly when the framer is not in `IDLE`, no event is left in the channel while an operation waits, a waiting
`MUX.READ` is not cancelled and its buffer holds no delimiter, the subscription set is in its one form, the legacy device has
a last address in `Programming`, and it is one of a program-write that was sent, the primary device is not in `Querying`
while a session exists. That an operation of the legacy device out of order keeps this too is the model's choice (log 26), and
so is what enters and leaves `Querying` (log 31). -/
def Obligations.EveryStepKeepsTheInvariant : Prop :=
  ∀ s t : State, s.inv = true → step s = .next t → t.inv = true

/-- No step changes the parameters, the kind of device or the channel's life, walks the legacy device's chain back, or takes
back a byte sent, a legacy command sent or an outcome reported; only a reset clears the cancel flag (10_state R29, R30,
70_reset_and_hazards R261, 00_scope R9). 44_host_protocols R200 gives the legacy device's chain and calls `Jumped` final; it
does not say what an operation out of order does, and that such an operation never walks the chain back either is the model's
own choice (log 26). -/
def Obligations.NoStepTakesBack : Prop :=
  ∀ s t : State, step s = .next t →
    t.params = s.params ∧ t.device = s.device ∧ t.chan.alive = s.chan.alive ∧ s.legacy.st.rank ≤ t.legacy.st.rank ∧
    s.legacy.sent <+: t.legacy.sent ∧ (s.mux.cancel = true → t.mux.cancel = true ∨ s.resetAsked = true) ∧
    s.chan.tx <+: t.chan.tx ∧ s.reports <+: t.reports

/-- The request side and the stream share no register (43_mux_stream R160, 20_memory R56). Stream operations, while no
operation waits for the framer, leave the framer, the host's state and the CRC registers alone; every other
instruction, while no `MUX.READ` waits, leaves the stream's buffer, set and promiscuous flag alone. -/
def Obligations.StreamAndRequestsShareNoRegister : Prop :=
  ∀ (i : Instr) (s t : State), exec i s = .next t →
    ((∃ b, i = .muxSub b) ∨ (∃ b, i = .muxUnsub b) ∨ (∃ v, i = .muxPromisc v) ∨ i = .muxRead ∨ (∃ b, i = .muxWrite b) ∨
        i = .muxCancel → s.task = none →
      t.sp = s.sp ∧ t.task = none ∧ t.ft = s.ft ∧ t.snapshot = s.snapshot ∧ t.querying = s.querying ∧ t.attempt = s.attempt ∧
        t.legacy = s.legacy ∧ t.acc16 = s.acc16 ∧ t.acc32 = s.acc32) ∧
    ((∀ b, i ≠ .muxSub b) → (∀ b, i ≠ .muxUnsub b) → (∀ v, i ≠ .muxPromisc v) → i ≠ .muxRead → s.reading = false →
      t.mux.buf = s.mux.buf ∧ t.mux.subs = s.mux.subs ∧ t.mux.promisc = s.mux.promisc ∧ t.reading = false)
end

