-- ==== Sys2Proof/Laws/Codec.lean ====
section
/-! SUPPORT. What the decoder's primitives read from what the encoder's primitives write. -/

namespace Sys2Proof

/-- A decoder that reads exactly the bytes `w` as `a`, whatever follows. -/
def Reads {α : Type} (d : Dec α) (w : Bytes) (a : α) : Prop := ∀ rest, d (w ++ rest) = .ok (a, rest)

/-- Reading nothing. -/
theorem Reads.pure {α : Type} (a : α) : Reads (Pure.pure a : Dec α) [] a := fun _ => rfl

/-- One reading after another. -/
theorem Reads.bind {α β : Type} {d : Dec α} {f : α → Dec β} {w v : Bytes} {a : α} {b : β} (h : Reads d w a)
    (k : Reads (f a) v b) : Reads (d >>= f) (w ++ v) b := by
  intro rest
  simp only [Bind.bind, StateT.bind, List.append_assoc, h (v ++ rest), Except.bind]
  exact k rest

/-- The last reading of a decoder: its value is what the decoder answers. -/
theorem Reads.map {α β : Type} {d : Dec α} {f : α → β} {w : Bytes} {a : α} (h : Reads d w a) :
    Reads (d >>= fun x => Pure.pure (f x)) w (f a) := by
  intro rest
  simp only [Bind.bind, StateT.bind, h rest, Except.bind]
  rfl

/-- The byte sequence a value is read from may be written another way. -/
theorem Reads.cast {α : Type} {d : Dec α} {w v : Bytes} {a b : α} (h : Reads d w a) (hw : w = v) (ha : a = b) :
    Reads d v b := hw ▸ ha ▸ h

theorem splitExact_append (w rest : Bytes) : splitExact w.length (w ++ rest) = some (w, rest) := by
  induction w with
  | nil => rfl
  | cons b bs ih => simp [splitExact, ih]

theorem reads_raw (w : Bytes) : Reads (getRaw w.length) w w := by
  intro rest
  simp [getRaw, splitExact_append]

theorem reads_byte (b : Byte) : Reads getByte [b] b := fun _ => rfl

@[simp] theorem beBytes_length (k n : Nat) : (beBytes k n).length = k := by
  induction k with
  | zero => rfl
  | succ k ih => simp [beBytes, ih]

theorem beNat_append (a b : Bytes) : beNat (a ++ b) = beNat a * 256 ^ b.length + beNat b := by
  have h : ∀ (b : Bytes) (x : Nat),
      List.foldl (fun (acc : Nat) (c : Byte) => acc * 256 + c.toNat) x b = x * 256 ^ b.length + beNat b := by
    intro b
    induction b with
    | nil => intro x; simp [beNat]
    | cons c cs ih =>
      intro x
      simp only [beNat, List.foldl_cons, List.length_cons, Nat.zero_mul, Nat.zero_add]
      rw [ih, ih]
      ring
  exact (List.foldl_append ..).trans (h b _)

theorem beNat_lt (bs : Bytes) : beNat bs < 256 ^ bs.length := by
  induction bs with
  | nil => simp [beNat]
  | cons b bs ih =>
    have h := beNat_append [b] bs
    have hb : beNat [b] = b.toNat := by simp [beNat]
    have := b.isLt
    simp only [List.singleton_append] at h
    rw [h, hb, List.length_cons, Nat.pow_succ]
    have hm : b.toNat * 256 ^ bs.length ≤ 255 * 256 ^ bs.length := Nat.mul_le_mul_right _ (by omega)
    omega

/-- A number is read back from its `k` bytes, modulo what they can hold. -/
theorem beNat_beBytes (k n : Nat) : beNat (beBytes k n) = n % 256 ^ k := by
  induction k with
  | zero => simp [beBytes, beNat, Nat.mod_one]
  | succ k ih =>
    have h := beNat_append [BitVec.ofNat 8 (n / 256 ^ k)] (beBytes k n)
    have hb : beNat [BitVec.ofNat 8 (n / 256 ^ k)] = n / 256 ^ k % 256 := by simp [beNat]
    simp only [List.singleton_append] at h
    rw [beBytes, h, hb, beBytes_length, ih, Nat.pow_succ, Nat.mod_mul]
    ring

theorem reads_nat (k n : Nat) (h : fits k n = true) : Reads (getNat k) (beBytes k n) n := by
  have hr := reads_raw (beBytes k n)
  rw [beBytes_length] at hr
  refine (Reads.map (f := beNat) hr).cast rfl ?_
  simp only [fits, decide_eq_true_eq] at h
  rw [beNat_beBytes, Nat.mod_eq_of_lt h]

theorem reads_bytes (bs : Bytes) (h : fitsBytes bs = true) : Reads getBytes (putBytes bs) bs :=
  Reads.bind (reads_nat 4 _ h) (reads_raw bs)

theorem reads_bool (b : Bool) : Reads getBool (putBool b) b := by cases b <;> exact fun _ => rfl

theorem reads_function (f : TransferFunction) : Reads getFunction (putFunction f) f := by
  cases f <;> exact fun _ => rfl

theorem reads_target (t : TransferTarget) : Reads getTarget (putTarget t) t := by cases t <;> exact fun _ => rfl

theorem reads_run (r : RunOption) : Reads getRun (putRun r) r := by cases r <;> exact fun _ => rfl

theorem reads_event (e : ChanEvent) : Reads getEvent (putEvent e) e := by cases e <;> exact fun _ => rfl

theorem checks_fits (c : Checks) (h : c.wellFormed = true) : fits 2 c.expectedLen = true := by
  have h' : c.expectedLen ≤ 32767 := of_decide_eq_true h
  exact decide_eq_true (Nat.lt_of_le_of_lt h' (by norm_num))

theorem reads_checks (c : Checks) (h : c.wellFormed = true) : Reads getChecks (putChecks c) c := by
  refine Reads.cast ?_ (List.append_assoc _ _ _).symm rfl
  exact (reads_bool c.ack).bind ((reads_bool c.len).bind (Reads.map (reads_nat 2 _ (checks_fits c h))))

theorem reads_table (t : TableRef) (h : t.wellFormed = true) : Reads getTable (putTable t) t := by
  simp only [TableRef.wellFormed, Bool.and_eq_true, decide_eq_true_eq] at h
  refine (reads_nat 2 _ h.1.2).bind ((Reads.map (reads_nat 8 _ h.2)).cast rfl ?_)
  rw [Nat.sub_add_cancel h.1.1]

theorem reads_packet (p : Packet) (h : p.wellFormed = true) : Reads getPacket (putPacket p) p := by
  simp only [Packet.wellFormed, Bool.and_eq_true, decide_eq_true_eq] at h
  refine Reads.cast ?_ (List.append_assoc _ _ _).symm rfl
  refine (reads_byte p.cmd).bind ((reads_nat 1 _ h.1.1).bind ((Reads.map (reads_bytes _ h.1.2)).cast rfl ?_))
  rw [← h.2]

theorem reads_init (a : InitArgs) (h : a.wellFormed = true) : Reads getInit (putInit a) a := by
  simp only [InitArgs.wellFormed, Bool.and_eq_true] at h
  obtain ⟨⟨⟨⟨⟨⟨h1, h2⟩, h3⟩, h4⟩, h5⟩, h6⟩, h7⟩ := h
  have hc : fits 4 a.crc.toNat = true := by
    have := a.crc.isLt
    simpa [fits] using this
  simp only [putInit, List.append_assoc]
  refine (reads_bytes _ h1).bind ?_
  refine (reads_function a.function).bind ?_
  refine (reads_target a.target).bind ?_
  refine (reads_nat 4 _ h2).bind ?_
  refine (reads_nat 4 _ h3).bind ?_
  refine (reads_nat 4 _ h4).bind ?_
  refine (reads_nat 4 _ hc).bind ?_
  refine (reads_bool a.overwrite).bind ?_
  refine (reads_bytes _ h5).bind ?_
  refine (reads_nat 4 _ h6).bind ?_
  exact (Reads.map (reads_nat 4 _ h7)).cast rfl (by simp)

theorem reads_upload (a : UploadArgs) (h : a.wellFormed = true) : Reads getUpload (putUpload a) a := by
  simp only [UploadArgs.wellFormed, Bool.and_eq_true, decide_eq_true_eq] at h
  obtain ⟨⟨⟨⟨⟨⟨⟨⟨h1, h2⟩, h3⟩, h4⟩, h5⟩, h6⟩, h7⟩, h8⟩, h9⟩ := h
  simp only [putUpload, List.append_assoc]
  refine (reads_bytes _ h1).bind ?_
  refine (reads_bytes _ h2).bind ?_
  refine (reads_target a.target).bind ?_
  refine (reads_nat 4 _ h3).bind ?_
  refine (reads_nat 4 _ h4).bind ?_
  refine (reads_bool a.overwrite).bind ?_
  refine (reads_bytes _ h5).bind ?_
  refine (reads_nat 4 _ h6).bind ?_
  refine (reads_nat 4 _ h7).bind ?_
  refine (reads_run a.run).bind ?_
  refine (Reads.map (reads_nat 2 _ h9)).cast rfl ?_
  rw [Nat.sub_add_cancel h8]

theorem reads_download (a : DownloadArgs) (h : a.wellFormed = true) : Reads getDownload (putDownload a) a := by
  simp only [DownloadArgs.wellFormed, Bool.and_eq_true, decide_eq_true_eq] at h
  obtain ⟨⟨⟨⟨⟨⟨⟨⟨⟨h1, h2⟩, h3⟩, h4⟩, h5⟩, h6⟩, h7⟩, hc⟩, h8⟩, h9⟩ := h
  simp only [putDownload, List.append_assoc]
  refine (reads_bytes _ h1).bind ?_
  refine (reads_nat 4 _ h2).bind ?_
  refine (reads_target a.target).bind ?_
  refine (reads_nat 4 _ h3).bind ?_
  refine (reads_nat 4 _ h4).bind ?_
  refine (reads_bool a.overwrite).bind ?_
  refine (reads_bytes _ h5).bind ?_
  refine (reads_nat 4 _ h6).bind ?_
  refine (reads_nat 4 _ h7).bind ?_
  refine (reads_checks a.checks hc).bind ?_
  refine (Reads.map (reads_nat 2 _ h9)).cast rfl ?_
  rw [Nat.sub_add_cancel h8]

/-- Every error that fits the port is read back. -/
theorem reads_err (e : Err) (h : e.wellFormed = true) : Reads getErr (putErr e) e := by
  cases e with
  | lengthOverflow n => exact (reads_byte 10).bind (Reads.map (reads_nat 4 n h))
  | invalidWidth n => exact (reads_byte 11).bind (Reads.map (reads_nat 4 n h))
  | invalidTopic t => exact (reads_byte 12).bind (Reads.map (reads_bytes t h))
  | transport r => cases r <;> exact fun _ => rfl
  | unexpectedAck b => cases b <;> exact fun _ => rfl
  | deviceRejected c => cases c <;> exact fun _ => rfl
  | _ => exact fun _ => rfl

theorem reads_errKind (k : ErrKind) : Reads getErrKind [k.number] k := by cases k <;> exact fun _ => rfl

/-- A row of things is read back when each of them is. -/
theorem reads_many {α : Type} {d : Dec α} {w : α → Bytes} (as : List α) (h : ∀ a ∈ as, Reads d (w a) a) :
    Reads (getMany d as.length) (as.flatMap w) as := by
  induction as with
  | nil => exact fun _ => rfl
  | cons a as ih =>
    rw [List.flatMap_cons]
    exact (h a (by simp)).bind (Reads.map (ih fun b hb => h b (by simp [hb])))

theorem reads_list {α : Type} {d : Dec α} {w : α → Bytes} (as : List α) (hn : fits 2 as.length = true)
    (h : ∀ a ∈ as, Reads d (w a) a) : Reads (getList d) (putList w as) as :=
  (reads_nat 2 _ hn).bind (reads_many as h)

/-- Every choice of retryable errors that fits the port is read back. -/
theorem reads_retryable (r : Retryable) (h : r.wellFormed = true) : Reads getRetryable (putRetryable r) r := by
  cases r with
  | classify => exact fun _ => rfl
  | these kinds errs =>
    simp only [Retryable.wellFormed, Bool.and_eq_true, List.all_eq_true] at h
    simp only [putRetryable, List.append_assoc]
    exact (reads_byte 1).bind ((reads_list kinds h.1.1 fun k _ => reads_errKind k).bind
      (Reads.map (reads_list errs h.1.2 fun e he => reads_err e (h.2 e he))))

/-- Every retry policy that fits the port is read back. -/
theorem reads_policy (r : RetryPolicy) (h : r.wellFormed = true) : Reads getPolicy (putPolicy r) r := by
  simp only [RetryPolicy.wellFormed, Bool.and_eq_true, decide_eq_true_eq] at h
  refine (reads_nat 1 _ h.1.2).bind ((Reads.map (reads_retryable _ h.2)).cast rfl ?_)
  rw [Nat.sub_add_cancel h.1.1]

/-- Every operation of the legacy device that fits the port is read back. -/
theorem reads_boot (op : BootOp) (h : op.wellFormed = true) : Reads getBoot (putBoot op) op := by
  cases op with
  | handshake => exact fun _ => rfl
  | erase scope =>
    cases scope with
    | all => exact fun _ => rfl
    | pages numbers =>
      simp only [BootOp.wellFormed, Bool.and_eq_true, List.all_eq_true] at h
      exact (reads_byte 2).bind (Reads.map (reads_list numbers h.1 fun n hn => reads_nat 4 n (h.2 n hn)))
  | programWrite a d =>
    simp only [BootOp.wellFormed, Bool.and_eq_true, decide_eq_true_eq] at h
    have hd : fits 2 d.length = true := decide_eq_true (Nat.lt_of_le_of_lt h.2 (by decide))
    simp only [putBoot, List.append_assoc]
    exact (reads_byte 3).bind ((reads_nat 4 a h.1).bind ((reads_nat 2 _ hd).bind (Reads.map (reads_raw d))))
  | jump a => exact (reads_byte 4).bind (Reads.map (reads_nat 4 a h))

/-- Every host operation that fits the port is read back. -/
theorem reads_hostOp (op : HostOp) (h : op.wellFormed = true) : Reads getHostOp (putHostOp op) op := by
  cases op with
  | xchg sub payload c =>
    simp only [HostOp.wellFormed, Bool.and_eq_true] at h
    simp only [putHostOp, List.append_assoc]
    refine (reads_byte 0).bind (v := [sub] ++ (putBytes payload ++ putChecks c)) ?_
    exact (reads_byte sub).bind ((reads_bytes _ h.1).bind (Reads.map (reads_checks c h.2)))
  | init a => exact (reads_byte 1).bind (Reads.map (reads_init a h))
  | write a d =>
    simp only [HostOp.wellFormed, Bool.and_eq_true] at h
    simp only [putHostOp, List.append_assoc]
    exact (reads_byte 2).bind ((reads_nat 4 a h.1).bind (Reads.map (reads_bytes d h.2)))
  | read a n c =>
    simp only [HostOp.wellFormed, Bool.and_eq_true] at h
    simp only [putHostOp, List.append_assoc]
    exact (reads_byte 3).bind ((reads_nat 4 a h.1.1).bind ((reads_nat 4 n h.1.2).bind (Reads.map (reads_checks c h.2))))
  | complete r => exact (reads_byte 4).bind (Reads.map (reads_run r))
  | upload a => exact (reads_byte 5).bind (Reads.map (reads_upload a h))
  | download a => exact (reads_byte 6).bind (Reads.map (reads_download a h))
  | command code payload c =>
    simp only [HostOp.wellFormed, Bool.and_eq_true] at h
    simp only [putHostOp, List.append_assoc]
    refine (reads_byte 7).bind (v := [code] ++ (putBytes payload ++ putChecks c)) ?_
    exact (reads_byte code).bind ((reads_bytes _ h.1).bind (Reads.map (reads_checks c h.2)))
  | status payload c =>
    simp only [HostOp.wellFormed, Bool.and_eq_true] at h
    simp only [putHostOp, List.append_assoc]
    exact (reads_byte 8).bind ((reads_bytes _ h.1).bind (Reads.map (reads_checks c h.2)))
  | boot op => exact (reads_byte 9).bind (Reads.map (reads_boot op h))

end Sys2Proof
end

