-- ==== Sys2Proof/Laws/State.lean ====
section
/-! SUPPORT. One lemma for each field of the state and each named update, so that no proof unfolds a record update. -/

namespace Sys2Proof.Machine

/-! `report`. -/

@[simp] theorem State.report_acc16 (c : Caller) (r : Res) (s : State) : (s.report c r).acc16 = s.acc16 := rfl
@[simp] theorem State.report_acc32 (c : Caller) (r : Res) (s : State) : (s.report c r).acc32 = s.acc32 := rfl
@[simp] theorem State.report_sp (c : Caller) (r : Res) (s : State) : (s.report c r).sp = s.sp := rfl
@[simp] theorem State.report_mux (c : Caller) (r : Res) (s : State) : (s.report c r).mux = s.mux := rfl
@[simp] theorem State.report_task (c : Caller) (r : Res) (s : State) : (s.report c r).task = s.task := rfl
@[simp] theorem State.report_reading (c : Caller) (r : Res) (s : State) : (s.report c r).reading = s.reading := rfl
@[simp] theorem State.report_chan (c : Caller) (r : Res) (s : State) : (s.report c r).chan = s.chan := rfl
@[simp] theorem State.report_ft (c : Caller) (r : Res) (s : State) : (s.report c r).ft = s.ft := rfl
@[simp] theorem State.report_snapshot (c : Caller) (r : Res) (s : State) : (s.report c r).snapshot = s.snapshot := rfl
@[simp] theorem State.report_querying (c : Caller) (r : Res) (s : State) : (s.report c r).querying = s.querying := rfl
@[simp] theorem State.report_device (c : Caller) (r : Res) (s : State) : (s.report c r).device = s.device := rfl
@[simp] theorem State.report_legacy (c : Caller) (r : Res) (s : State) : (s.report c r).legacy = s.legacy := rfl
@[simp] theorem State.report_attempt (c : Caller) (r : Res) (s : State) : (s.report c r).attempt = s.attempt := rfl
@[simp] theorem State.report_resetAsked (c : Caller) (r : Res) (s : State) : (s.report c r).resetAsked = s.resetAsked := rfl
@[simp] theorem State.report_port (c : Caller) (r : Res) (s : State) : (s.report c r).port = s.port := rfl
@[simp] theorem State.report_reports (c : Caller) (r : Res) (s : State) : (s.report c r).reports = s.reports ++ [⟨c, r⟩] := rfl
@[simp] theorem State.report_params (c : Caller) (r : Res) (s : State) : (s.report c r).params = s.params := rfl

@[simp] theorem State.ret_eq_report (c : Caller) (v : Value) (s : State) : s.ret c v = s.report c (.ok v) := rfl
@[simp] theorem State.raise_eq_report (c : Caller) (e : Err) (s : State) : s.raise c e = s.report c (.error e) := rfl

/-! `arm`. -/

@[simp] theorem State.arm_acc16 (s : State) : (s.arm).acc16 = s.acc16 := rfl
@[simp] theorem State.arm_acc32 (s : State) : (s.arm).acc32 = s.acc32 := rfl
@[simp] theorem State.arm_sp (s : State) : (s.arm).sp = s.sp.arm := rfl
@[simp] theorem State.arm_mux (s : State) : (s.arm).mux = s.mux := rfl
@[simp] theorem State.arm_task (s : State) : (s.arm).task = s.task := rfl
@[simp] theorem State.arm_reading (s : State) : (s.arm).reading = s.reading := rfl
@[simp] theorem State.arm_chan (s : State) : (s.arm).chan = s.chan := rfl
@[simp] theorem State.arm_ft (s : State) : (s.arm).ft = s.ft := rfl
@[simp] theorem State.arm_snapshot (s : State) : (s.arm).snapshot = s.snapshot := rfl
@[simp] theorem State.arm_querying (s : State) : (s.arm).querying = s.querying := rfl
@[simp] theorem State.arm_device (s : State) : (s.arm).device = s.device := rfl
@[simp] theorem State.arm_legacy (s : State) : (s.arm).legacy = s.legacy := rfl
@[simp] theorem State.arm_attempt (s : State) : (s.arm).attempt = s.attempt := rfl
@[simp] theorem State.arm_resetAsked (s : State) : (s.arm).resetAsked = s.resetAsked := rfl
@[simp] theorem State.arm_port (s : State) : (s.arm).port = s.port := rfl
@[simp] theorem State.arm_reports (s : State) : (s.arm).reports = s.reports := rfl
@[simp] theorem State.arm_params (s : State) : (s.arm).params = s.params := rfl

/-! `dropSession`. -/

@[simp] theorem State.dropSession_acc16 (s : State) : (s.dropSession).acc16 = s.acc16 := rfl
@[simp] theorem State.dropSession_acc32 (s : State) : (s.dropSession).acc32 = s.acc32 := rfl
@[simp] theorem State.dropSession_sp (s : State) : (s.dropSession).sp = s.sp := rfl
@[simp] theorem State.dropSession_mux (s : State) : (s.dropSession).mux = s.mux := rfl
@[simp] theorem State.dropSession_task (s : State) : (s.dropSession).task = s.task := rfl
@[simp] theorem State.dropSession_reading (s : State) : (s.dropSession).reading = s.reading := rfl
@[simp] theorem State.dropSession_chan (s : State) : (s.dropSession).chan = s.chan := rfl
@[simp] theorem State.dropSession_ft (s : State) : (s.dropSession).ft = none := rfl
@[simp] theorem State.dropSession_snapshot (s : State) : (s.dropSession).snapshot = s.snapshot := rfl
@[simp] theorem State.dropSession_querying (s : State) : (s.dropSession).querying = s.querying := rfl
@[simp] theorem State.dropSession_device (s : State) : (s.dropSession).device = s.device := rfl
@[simp] theorem State.dropSession_legacy (s : State) : (s.dropSession).legacy = s.legacy := rfl
@[simp] theorem State.dropSession_attempt (s : State) : (s.dropSession).attempt = s.attempt := rfl
@[simp] theorem State.dropSession_resetAsked (s : State) : (s.dropSession).resetAsked = s.resetAsked := rfl
@[simp] theorem State.dropSession_port (s : State) : (s.dropSession).port = s.port := rfl
@[simp] theorem State.dropSession_reports (s : State) : (s.dropSession).reports = s.reports := rfl
@[simp] theorem State.dropSession_params (s : State) : (s.dropSession).params = s.params := rfl

/-! `advanceSession`. -/

@[simp] theorem State.advanceSession_acc16 (a : Nat) (s : State) : (s.advanceSession a).acc16 = s.acc16 := rfl
@[simp] theorem State.advanceSession_acc32 (a : Nat) (s : State) : (s.advanceSession a).acc32 = s.acc32 := rfl
@[simp] theorem State.advanceSession_sp (a : Nat) (s : State) : (s.advanceSession a).sp = s.sp := rfl
@[simp] theorem State.advanceSession_mux (a : Nat) (s : State) : (s.advanceSession a).mux = s.mux := rfl
@[simp] theorem State.advanceSession_task (a : Nat) (s : State) : (s.advanceSession a).task = s.task := rfl
@[simp] theorem State.advanceSession_reading (a : Nat) (s : State) : (s.advanceSession a).reading = s.reading := rfl
@[simp] theorem State.advanceSession_chan (a : Nat) (s : State) : (s.advanceSession a).chan = s.chan := rfl
@[simp] theorem State.advanceSession_ft (a : Nat) (s : State) : (s.advanceSession a).ft = s.ft.map fun f => { f with address := a } := rfl
@[simp] theorem State.advanceSession_snapshot (a : Nat) (s : State) : (s.advanceSession a).snapshot = s.snapshot := rfl
@[simp] theorem State.advanceSession_querying (a : Nat) (s : State) : (s.advanceSession a).querying = s.querying := rfl
@[simp] theorem State.advanceSession_device (a : Nat) (s : State) : (s.advanceSession a).device = s.device := rfl
@[simp] theorem State.advanceSession_legacy (a : Nat) (s : State) : (s.advanceSession a).legacy = s.legacy := rfl
@[simp] theorem State.advanceSession_attempt (a : Nat) (s : State) : (s.advanceSession a).attempt = s.attempt := rfl
@[simp] theorem State.advanceSession_resetAsked (a : Nat) (s : State) : (s.advanceSession a).resetAsked = s.resetAsked := rfl
@[simp] theorem State.advanceSession_port (a : Nat) (s : State) : (s.advanceSession a).port = s.port := rfl
@[simp] theorem State.advanceSession_reports (a : Nat) (s : State) : (s.advanceSession a).reports = s.reports := rfl
@[simp] theorem State.advanceSession_params (a : Nat) (s : State) : (s.advanceSession a).params = s.params := rfl

/-! `setSubs`. -/

@[simp] theorem State.setSubs_acc16 (l : List Topic) (s : State) : (s.setSubs l).acc16 = s.acc16 := rfl
@[simp] theorem State.setSubs_acc32 (l : List Topic) (s : State) : (s.setSubs l).acc32 = s.acc32 := rfl
@[simp] theorem State.setSubs_sp (l : List Topic) (s : State) : (s.setSubs l).sp = s.sp := rfl
@[simp] theorem State.setSubs_mux (l : List Topic) (s : State) : (s.setSubs l).mux = { s.mux with subs := l } := rfl
@[simp] theorem State.setSubs_task (l : List Topic) (s : State) : (s.setSubs l).task = s.task := rfl
@[simp] theorem State.setSubs_reading (l : List Topic) (s : State) : (s.setSubs l).reading = s.reading := rfl
@[simp] theorem State.setSubs_chan (l : List Topic) (s : State) : (s.setSubs l).chan = s.chan := rfl
@[simp] theorem State.setSubs_ft (l : List Topic) (s : State) : (s.setSubs l).ft = s.ft := rfl
@[simp] theorem State.setSubs_snapshot (l : List Topic) (s : State) : (s.setSubs l).snapshot = s.snapshot := rfl
@[simp] theorem State.setSubs_querying (l : List Topic) (s : State) : (s.setSubs l).querying = s.querying := rfl
@[simp] theorem State.setSubs_device (l : List Topic) (s : State) : (s.setSubs l).device = s.device := rfl
@[simp] theorem State.setSubs_legacy (l : List Topic) (s : State) : (s.setSubs l).legacy = s.legacy := rfl
@[simp] theorem State.setSubs_attempt (l : List Topic) (s : State) : (s.setSubs l).attempt = s.attempt := rfl
@[simp] theorem State.setSubs_resetAsked (l : List Topic) (s : State) : (s.setSubs l).resetAsked = s.resetAsked := rfl
@[simp] theorem State.setSubs_port (l : List Topic) (s : State) : (s.setSubs l).port = s.port := rfl
@[simp] theorem State.setSubs_reports (l : List Topic) (s : State) : (s.setSubs l).reports = s.reports := rfl
@[simp] theorem State.setSubs_params (l : List Topic) (s : State) : (s.setSubs l).params = s.params := rfl

/-! `withPort`. -/

@[simp] theorem State.withPort_acc16 (bs : Bytes) (s : State) : (s.withPort bs).acc16 = s.acc16 := rfl
@[simp] theorem State.withPort_acc32 (bs : Bytes) (s : State) : (s.withPort bs).acc32 = s.acc32 := rfl
@[simp] theorem State.withPort_sp (bs : Bytes) (s : State) : (s.withPort bs).sp = s.sp := rfl
@[simp] theorem State.withPort_mux (bs : Bytes) (s : State) : (s.withPort bs).mux = s.mux := rfl
@[simp] theorem State.withPort_task (bs : Bytes) (s : State) : (s.withPort bs).task = s.task := rfl
@[simp] theorem State.withPort_reading (bs : Bytes) (s : State) : (s.withPort bs).reading = s.reading := rfl
@[simp] theorem State.withPort_chan (bs : Bytes) (s : State) : (s.withPort bs).chan = s.chan := rfl
@[simp] theorem State.withPort_ft (bs : Bytes) (s : State) : (s.withPort bs).ft = s.ft := rfl
@[simp] theorem State.withPort_snapshot (bs : Bytes) (s : State) : (s.withPort bs).snapshot = s.snapshot := rfl
@[simp] theorem State.withPort_querying (bs : Bytes) (s : State) : (s.withPort bs).querying = s.querying := rfl
@[simp] theorem State.withPort_device (bs : Bytes) (s : State) : (s.withPort bs).device = s.device := rfl
@[simp] theorem State.withPort_legacy (bs : Bytes) (s : State) : (s.withPort bs).legacy = s.legacy := rfl
@[simp] theorem State.withPort_attempt (bs : Bytes) (s : State) : (s.withPort bs).attempt = s.attempt := rfl
@[simp] theorem State.withPort_resetAsked (bs : Bytes) (s : State) : (s.withPort bs).resetAsked = s.resetAsked := rfl
@[simp] theorem State.withPort_port (bs : Bytes) (s : State) : (s.withPort bs).port = bs := rfl
@[simp] theorem State.withPort_reports (bs : Bytes) (s : State) : (s.withPort bs).reports = s.reports := rfl
@[simp] theorem State.withPort_params (bs : Bytes) (s : State) : (s.withPort bs).params = s.params := rfl

/-! The framer's updates. -/

@[simp] theorem Framer.arm_st (f : Framer) : f.arm.st = .hunt0 := rfl
@[simp] theorem Framer.arm_cmd (f : Framer) : f.arm.cmd = f.cmd := rfl
@[simp] theorem Framer.arm_len (f : Framer) : f.arm.len = f.len := rfl
@[simp] theorem Framer.arm_cnt (f : Framer) : f.arm.cnt = f.cnt := rfl
@[simp] theorem Framer.arm_hlen (f : Framer) : f.arm.hlen = f.hlen := rfl
@[simp] theorem Framer.arm_raw (f : Framer) : f.arm.raw = [] := rfl

@[simp] theorem Framer.complete_st (f : Framer) : f.complete.1.st = .idle := rfl
@[simp] theorem Framer.complete_cmd (f : Framer) : f.complete.1.cmd = f.cmd := rfl
@[simp] theorem Framer.complete_len (f : Framer) : f.complete.1.len = f.len := rfl
@[simp] theorem Framer.complete_cnt (f : Framer) : f.complete.1.cnt = f.cnt := rfl
@[simp] theorem Framer.complete_hlen (f : Framer) : f.complete.1.hlen = f.hlen := rfl
@[simp] theorem Framer.complete_raw (f : Framer) : f.complete.1.raw = f.raw := rfl
@[simp] theorem Framer.complete_outcome (f : Framer) : f.complete.2 = some (.ok f.packet) := rfl

@[simp] theorem Framer.abort_st (f : Framer) (e : Err) : (f.abort e).1.st = .idle := rfl
@[simp] theorem Framer.abort_cmd (f : Framer) (e : Err) : (f.abort e).1.cmd = f.cmd := rfl
@[simp] theorem Framer.abort_len (f : Framer) (e : Err) : (f.abort e).1.len = f.len := rfl
@[simp] theorem Framer.abort_cnt (f : Framer) (e : Err) : (f.abort e).1.cnt = f.cnt := rfl
@[simp] theorem Framer.abort_hlen (f : Framer) (e : Err) : (f.abort e).1.hlen = f.hlen := rfl
@[simp] theorem Framer.abort_raw (f : Framer) (e : Err) : (f.abort e).1.raw = [] := rfl
@[simp] theorem Framer.abort_outcome (f : Framer) (e : Err) : (f.abort e).2 = some (.error e) := rfl

end Sys2Proof.Machine
end

