-- ==== Sys2Proof/Laws/Ops.lean ====
section
/-! SUPPORT. For each shared operation, one lemma that says everything it can do. -/

namespace Sys2Proof.Machine

/-! Writing the channel. -/

/-- A write that nothing was foreseen for is accepted. -/
theorem chanWrite_of_nil (bytes : Bytes) (s : State) (h : s.chan.writes = []) :
    s.chanWrite bytes = ({ s with chan := { s.chan with tx := s.chan.tx ++ bytes } }, true) := by
  simp [State.chanWrite, h]

/-- A write appends the bytes, or a part of them when it fails, and uses up its answer. -/
theorem chanWrite_cases (bytes : Bytes) (s : State) :
    (s.chanWrite bytes =
      ({ s with chan := { s.chan with tx := s.chan.tx ++ bytes, writes := s.chan.writes.tail } }, true)) ∨
    (∃ n, s.chan.writes.head? = some (.failed n) ∧ s.chanWrite bytes =
      ({ s with chan := { s.chan with tx := s.chan.tx ++ bytes.take n, writes := s.chan.writes.tail } }, false)) := by
  unfold State.chanWrite
  split <;> rename_i h
  · left; simp [h]
  · left; simp [h]
  · rename_i sent ws
    right; exact ⟨sent, by simp [h], by simp [h]⟩

/-- A write changes the channel's transmit side only. -/
theorem chanWrite_frame (bytes : Bytes) (s : State) :
    ∃ tx ws, (s.chanWrite bytes).1 = { s with chan := { s.chan with tx := s.chan.tx ++ tx, writes := ws } } := by
  rcases chanWrite_cases bytes s with h | ⟨n, -, h⟩ <;> rw [h]
  · exact ⟨_, _, rfl⟩
  · exact ⟨_, _, rfl⟩

/-! Starting an exchange. -/

/-- What `startXchg` can do: refuse when busy, refuse a payload that is too long, lose the write, or wait for the reply. -/
theorem startXchg_cases (sub : Byte) (payload : Bytes) (s : State) :
    (s.sp.st ≠ .idle ∧ s.startXchg sub payload = (some .busy, s)) ∨
    (s.sp.st = .idle ∧ ∃ e, extTx sub payload = .error e ∧ s.startXchg sub payload = (some e, s)) ∨
    (s.sp.st = .idle ∧ ∃ wire, extTx sub payload = .ok wire ∧
      (((s.chanWrite wire).2 = false ∧
          s.startXchg sub payload = (some (.transport .channelFailure), { (s.chanWrite wire).1 with querying := false })) ∨
        ((s.chanWrite wire).2 = true ∧
          s.startXchg sub payload = (none, { (s.chanWrite wire).1.arm with querying := (s.chanWrite wire).1.ft.isNone })))) := by
  unfold State.startXchg
  by_cases hst : s.sp.st = .idle
  · right
    cases hx : extTx sub payload with
    | error e => left; simp [hst]
    | ok wire =>
      right
      refine ⟨hst, wire, rfl, ?_⟩
      rcases hw : s.chanWrite wire with ⟨s', ok⟩
      cases ok <;> simp [hst, hw]
  · left; simp [hst]

/-- A primary device's record that is in order stays so: not in `Querying` while a session exists. -/
def RecordKept (s t : State) : Prop := (s.ft.isSome → s.querying = false) → t.ft.isSome → t.querying = false

/-- Starting an exchange changes the framer, the channel's transmit side and the primary device's state only. -/
theorem startXchg_frame (sub : Byte) (payload : Bytes) (s : State) :
    ∃ sp q tx ws, (s.startXchg sub payload).2 =
      { s with sp := sp, querying := q, chan := { s.chan with tx := s.chan.tx ++ tx, writes := ws } } ∧
      RecordKept s (s.startXchg sub payload).2 := by
  rcases startXchg_cases sub payload s with ⟨-, h⟩ | ⟨-, e, -, h⟩ | ⟨-, w, -, ⟨-, h⟩ | ⟨-, h⟩⟩ <;> rw [h]
  · exact ⟨s.sp, s.querying, [], s.chan.writes, by simp, id⟩
  · exact ⟨s.sp, s.querying, [], s.chan.writes, by simp, id⟩
  · obtain ⟨tx, ws, h⟩ := chanWrite_frame w s
    exact ⟨s.sp, false, tx, ws, by simp [h], fun _ _ => rfl⟩
  · obtain ⟨tx, ws, h⟩ := chanWrite_frame w s
    exact ⟨s.sp.arm, s.ft.isNone, tx, ws, by simp [h, State.arm], by simp [RecordKept, h, State.arm]⟩

/-- An exchange that starts leaves the framer armed; one that does not leaves the framer as it was. -/
theorem startXchg_framer (sub : Byte) (payload : Bytes) (s : State) :
    ((s.startXchg sub payload).1 = none ∧ s.sp.st = .idle ∧ (s.startXchg sub payload).2.sp = s.sp.arm) ∨
    ((s.startXchg sub payload).1.isSome ∧ (s.startXchg sub payload).2.sp = s.sp) := by
  rcases startXchg_cases sub payload s with ⟨-, h⟩ | ⟨-, e, -, h⟩ | ⟨hst, w, -, ⟨-, h⟩ | ⟨-, h⟩⟩ <;> rw [h]
  · right; simp
  · right; simp
  · obtain ⟨tx, ws, h⟩ := chanWrite_frame w s
    right; simp [h]
  · obtain ⟨tx, ws, h⟩ := chanWrite_frame w s
    left; simp [h, hst]

/-! The legacy device. -/

/-- What an operation may do to the legacy device: the chain is not walked back, nothing sent is taken back, and the last
address stays that of a program-write that was sent. -/
def LegacyMoves (l l' : Legacy) : Prop :=
  l.st.rank ≤ l'.st.rank ∧ l.sent <+: l'.sent ∧ (l.ok = true → l'.ok = true)

theorem LegacyMoves.refl (l : Legacy) : LegacyMoves l l := ⟨le_rfl, List.prefix_rfl, id⟩

theorem LegacyMoves.trans {l m n : Legacy} (h : LegacyMoves l m) (k : LegacyMoves m n) : LegacyMoves l n :=
  ⟨h.1.trans k.1, h.2.1.trans k.2.1, k.2.2 ∘ h.2.2⟩

/-- A command is recorded and takes an answer. -/
theorem legacy_command_cases (op : BootOp) (l : Legacy) :
    ∃ as n, (l.command op).2 = { l with sent := l.sent ++ [op], answers := as, asked := n } := by
  unfold Legacy.command Legacy.answer
  split
  · split
    · exact ⟨_, l.asked, rfl⟩
    · exact ⟨l.answers, _, rfl⟩
  · exact ⟨l.answers, _, rfl⟩

/-- A command out of order takes the free value, and no answer that is foretold. -/
theorem legacy_command_out_of_order (op : BootOp) (l : Legacy) (h : l.inOrder op = false) :
    l.command op = (Config.bootAnswer l.asked, { l with sent := l.sent ++ [op], asked := l.asked + 1 }) := by
  have h' : Legacy.inOrder { l with sent := l.sent ++ [op] } op = false := h
  unfold Legacy.command Legacy.answer
  split
  · rw [h']; rfl
  · rfl

theorem legacy_command_moves (op : BootOp) (l : Legacy) : LegacyMoves l (l.command op).2 := by
  obtain ⟨as, n, h⟩ := legacy_command_cases op l
  rw [h]
  refine ⟨le_rfl, by simp, fun hk => ?_⟩
  simp only [Legacy.ok, Bool.and_eq_true] at hk ⊢
  refine ⟨hk.1, ?_⟩
  cases hl : l.last with
  | none => rfl
  | some a => simp_all

theorem legacy_handshake_moves (n : Nat) (l : Legacy) : LegacyMoves l (l.handshake n).2 := by
  induction n generalizing l with
  | zero => exact legacy_command_moves _ l
  | succ n ih =>
    have h := legacy_command_moves .handshake l
    unfold Legacy.handshake
    split <;> rename_i hc <;> rw [hc] at h
    · exact h
    · exact h.trans (ih _)

/-- The state after an operation that succeeded: by the chain's arrow, or, where it has none, the same or one further on that
the operation enters. -/
theorem legacy_next_cases (op : BootOp) (l : Legacy) :
    l.st.after op = some (l.next op) ∨
      (l.st.after op = none ∧
        (l.next op = l.st ∨ (l.st.rank < (enteredBy op).rank ∧ l.next op = enteredBy op))) := by
  unfold Legacy.next
  split
  · exact .inl ‹_›
  · refine .inr ⟨‹_›, ?_⟩
    split
    · rename_i h; exact .inr ⟨h.1, rfl⟩
    · exact .inl rfl

/-- An arrow of the chain leads to the state that the operation enters, and not back. -/
theorem legacy_after_cases {l l' : LegacyState} {op : BootOp} (h : l.after op = some l') :
    l' = enteredBy op ∧ l.rank ≤ l'.rank := by
  cases l <;> cases op <;> simp_all [LegacyState.after, enteredBy] <;> subst h <;> simp [LegacyState.rank]

theorem legacy_advance_moves (op : BootOp) (l : Legacy) (h : op ∈ l.sent) : LegacyMoves l (l.advance op) := by
  have hst : l.st.rank ≤ (l.next op).rank ∧ (l.next op = l.st ∨ l.next op = enteredBy op) := by
    obtain ha | ⟨_, hn | ⟨hr, hn⟩⟩ := legacy_next_cases op l
    · exact ⟨(legacy_after_cases ha).2, .inr (legacy_after_cases ha).1⟩
    · exact ⟨hn ▸ le_rfl, .inl hn⟩
    · exact ⟨hn ▸ hr.le, .inr hn⟩
  refine ⟨hst.1, List.prefix_rfl, fun hk => ?_⟩
  simp only [Legacy.ok, Legacy.advance, Bool.and_eq_true] at hk ⊢
  cases op with
  | programWrite a d =>
    exact ⟨by simp [Legacy.nextLast], by simpa [Legacy.nextLast] using ⟨_, h, by simp [writesAt]⟩⟩
  | _ =>
    refine ⟨?_, hk.2⟩
    obtain hn | hn := hst.2 <;> rw [hn]
    · exact hk.1
    · rfl

/-- What an operation sends is recorded. -/
theorem legacy_ask_sent (n : Nat) (op : BootOp) (l : Legacy) : op ∈ (l.ask n op).2.sent := by
  have hc : ∀ l : Legacy, op ∈ (l.command op).2.sent := fun l => by
    obtain ⟨as, m, h⟩ := legacy_command_cases op l
    rw [h]; simp
  cases op
  case handshake =>
    unfold Legacy.ask
    dsimp only
    induction n generalizing l with
    | zero => exact hc l
    | succ n ih =>
      have h := hc l
      unfold Legacy.handshake
      split <;> rename_i he <;> rw [he] at h
      · exact h
      · exact ih _
  all_goals exact hc l

theorem legacy_ask_moves (n : Nat) (op : BootOp) (l : Legacy) : LegacyMoves l (l.ask n op).2 := by
  cases op
  case handshake => exact legacy_handshake_moves n l
  all_goals exact legacy_command_moves _ l

/-- How a legacy operation ends: without an error the chain moves on; with one the caller gets it, unchanged, and the chain
stays. -/
theorem legacy_perform_cases (n : Nat) (op : BootOp) (l : Legacy) :
    (bootError (l.ask n op).1 op = none ∧ l.perform n op = (.ok .unit, (l.ask n op).2.advance op)) ∨
      ∃ e, bootError (l.ask n op).1 op = some e ∧ l.perform n op = (.error e, (l.ask n op).2) := by
  unfold Legacy.perform
  dsimp only
  split
  · exact .inl ⟨‹_›, rfl⟩
  · exact .inr ⟨_, ‹_›, rfl⟩

/-- Every operation moves the legacy device forward or leaves it. -/
theorem legacy_perform_moves (n : Nat) (op : BootOp) (l : Legacy) : LegacyMoves l (l.perform n op).2 := by
  obtain ⟨_, h⟩ | ⟨_, _, h⟩ := legacy_perform_cases n op l <;> rw [h]
  · exact (legacy_ask_moves n op l).trans (legacy_advance_moves _ _ (legacy_ask_sent n op l))
  · exact legacy_ask_moves n op l

/-! Host operations. -/

/-- `t` is `s` but for what a host operation writes: the CRC-32 register, the session, the snapshot, the primary device's
state, the attempt counter, the legacy device, and the channel's transmit side. -/
def Hosted (s t : State) : Prop :=
  ∃ a g n q k l tx ws, LegacyMoves s.legacy l ∧ RecordKept s t ∧
    t = { s with acc32 := a, ft := g, snapshot := n, querying := q, attempt := k, legacy := l,
                 chan := { s.chan with tx := s.chan.tx ++ tx, writes := ws } }

theorem Hosted.refl (s : State) : Hosted s s :=
  ⟨s.acc32, s.ft, s.snapshot, s.querying, s.attempt, s.legacy, [], s.chan.writes, .refl _, id, by simp⟩

theorem Hosted.trans {s t u : State} (h : Hosted s t) (k : Hosted t u) : Hosted s u := by
  obtain ⟨_, _, _, _, _, _, tx, _, hl, hr, rfl⟩ := h
  obtain ⟨a, g, n, q, c, l, ty, ws, hm, hq, rfl⟩ := k
  exact ⟨a, g, n, q, c, l, tx ++ ty, ws, hl.trans hm, fun h0 => hq (hr h0), by simp⟩

/-- A host operation leaves the framer and the outcomes alone. -/
theorem Hosted.sp_reports {s t : State} (h : Hosted s t) : t.sp = s.sp ∧ t.reports = s.reports := by
  obtain ⟨_, _, _, _, _, _, _, _, -, -, rfl⟩ := h; exact ⟨rfl, rfl⟩

/-- The fields that host operations write, written by hand. -/
theorem Hosted.of (s : State) (a : BitVec 32) (g : Option Session) (n : Option Bytes) (q : Bool) (k : Nat)
    (hr : (s.ft.isSome → s.querying = false) → g.isSome → q = false) :
    Hosted s { s with acc32 := a, ft := g, snapshot := n, querying := q, attempt := k } :=
  ⟨a, g, n, q, k, s.legacy, [], s.chan.writes, .refl _, hr, by simp⟩

/-- What a flow of a host operation can be: it waits with the framer armed, or it ends with the framer as it was. -/
def FlowOf (s : State) (x : Flow) : Prop :=
  (s.sp.st = .idle ∧ ∃ fs t, Hosted s t ∧ x = .wait fs { t with sp := s.sp.arm }) ∨ (∃ r t, Hosted s t ∧ x = .done r t)

theorem FlowOf.done {s : State} (r : Res) {t : State} (h : Hosted s t) : FlowOf s (.done r t) := .inr ⟨r, t, h, rfl⟩

/-- What comes before a flow belongs to it, if it left the framer alone. -/
theorem FlowOf.after {s t : State} {x : Flow} (h : Hosted s t) (k : FlowOf t x) : FlowOf s x := by
  have hsp : t.sp = s.sp := h.sp_reports.1
  rcases k with ⟨hst, fs, u, hu, rfl⟩ | ⟨r, u, hu, rfl⟩
  · exact .inl ⟨hsp ▸ hst, fs, u, h.trans hu, by rw [hsp]⟩
  · exact .inr ⟨r, u, h.trans hu, rfl⟩

/-- A request is refused, lost, or waits for its reply. -/
theorem request_cases (sub : Byte) (payload : Bytes) (frames : List Frame) (s : State) :
    FlowOf s (s.request sub payload frames) := by
  obtain ⟨sp, q, tx, ws, hf, hk⟩ := startXchg_frame sub payload s
  have hr := startXchg_framer sub payload s
  have hh : Hosted s { s with querying := q, chan := { s.chan with tx := s.chan.tx ++ tx, writes := ws } } :=
    ⟨s.acc32, s.ft, s.snapshot, q, s.attempt, s.legacy, tx, ws, .refl _, by rw [hf] at hk; exact hk, rfl⟩
  unfold State.request
  rcases hx : s.startXchg sub payload with ⟨e, s'⟩
  rw [hx] at hf hr
  simp only at hf hr
  cases e with
  | none =>
    simp only [true_and, Option.isSome_none, Bool.false_eq_true, false_and, or_false] at hr
    refine .inl ⟨hr.1, frames, _, hh, ?_⟩
    rw [hf] at hr ⊢
    simp only at hr
    rw [hr.2]
  | some e =>
    simp only [reduceCtorEq, false_and, Option.isSome_some, true_and, false_or] at hr
    refine .inr ⟨.error e, _, hh, ?_⟩
    rw [hf] at hr ⊢
    simp only at hr
    rw [hr]

theorem startHost_cases (op : HostOp) (s : State) : FlowOf s (startHost op s) := by
  unfold startHost
  dsimp only
  split
  case h_3 =>
    split
    · exact .done _ (.refl s)
    · exact request_cases _ _ _ s
  case h_4 b =>
    exact .done _ ⟨s.acc32, s.ft, s.snapshot, s.querying, s.attempt, _, [], s.chan.writes,
      legacy_perform_moves s.params.bootExtraTries b s.legacy, id, by simp⟩
  case h_9 u => exact .after (.of s (crc32 u.payload 0) s.ft s.snapshot s.querying s.attempt id) (request_cases _ _ _ _)
  all_goals exact request_cases _ _ _ s

/-- What `launch` can do: wait with the framer armed, or end with the framer as it was. -/
theorem launch_cases (op : HostOp) (after : List Frame) (s : State) : FlowOf s (launch op after s) := by
  rcases startHost_cases op s with ⟨hst, fs, t, ht, h⟩ | ⟨r, t, ht, h⟩ <;> unfold launch <;> rw [h]
  · exact .inl ⟨hst, fs ++ after, t, ht, rfl⟩
  · cases r with
    | ok v => exact .done _ ht
    | error e =>
      dsimp only
      split
      · exact .done _ (ht.trans (.of t t.acc32 none t.snapshot t.querying t.attempt (by simp)))
      · exact .done _ ht

theorem attemptOnce_cases (op : HostOp) (policy : RetryPolicy) (attempt : Nat) (s : State) :
    FlowOf s (attemptOnce op policy attempt s) := by
  rcases launch_cases op [.retry op policy] s with ⟨hst, fs, t, ht, h⟩ | ⟨r, t, ht, h⟩ <;> unfold attemptOnce <;> rw [h]
  · exact .inl ⟨hst, fs, _, ht.trans (.of t t.acc32 t.ft t.snapshot t.querying attempt id), rfl⟩
  · exact .done r ht

/-- What the loop of `RETRY` can do: an attempt waits, or the last one made has ended. -/
theorem attempts_cases (op : HostOp) (policy : RetryPolicy) (left attempt : Nat) (s : State) :
    FlowOf s (attempts op policy left attempt s) := by
  induction left generalizing attempt s with
  | zero => exact attemptOnce_cases op policy attempt s
  | succ left ih =>
    rcases attemptOnce_cases op policy attempt s with ⟨hst, fs, t, ht, h⟩ | ⟨r, t, ht, h⟩ <;> unfold attempts <;> rw [h]
    · exact .inl ⟨hst, fs, t, ht, rfl⟩
    · cases r with
      | ok v => exact .done _ ht
      | error e =>
        dsimp only
        split
        · exact .after ht (ih _ t)
        · exact .done _ ht

/-- What a frame can do with an outcome: wait for another packet with the framer armed, or end with the framer as it was. -/
theorem resume_cases (f : Frame) (r : Res) (s : State) : FlowOf s (f.resume r s) := by
  have same : ∀ r', FlowOf s (.done r' s) := fun r' => .done r' (.refl s)
  have idle : ∀ r' g, FlowOf s (.done r' { s with querying := false, ft := g }) := fun r' g =>
    .done r' (.of s s.acc32 g s.snapshot false s.attempt fun _ _ => rfl)
  have drop : ∀ r', FlowOf s (.done r' s.dropSession) := fun r' =>
    .done r' (.of s s.acc32 none s.snapshot s.querying s.attempt (by simp))
  have advance : ∀ r' a, FlowOf s (.done r' (s.advanceSession a)) := fun r' a =>
    .done r' (.of s s.acc32 _ s.snapshot s.querying s.attempt (by simp))
  unfold Frame.resume
  split
  case h_3 =>
    dsimp only
    split
    · exact drop _
    · exact idle _ _
  case h_11 => unfold uploadNext; split <;> exact launch_cases _ _ s
  case h_13 => unfold downloadNext; split <;> exact launch_cases _ _ s
  case h_18 =>
    split
    · exact attempts_cases _ _ _ _ s
    · exact same _
  case h_19 v => exact .done _ (.of s s.acc32 s.ft (some (gained v)) s.querying s.attempt id)
  all_goals first | exact same _ | exact drop _ | exact advance _ _ | exact idle _ s.ft

/-- What an outcome going up the frames can do: wait for another packet with the framer armed, or reach the caller. -/
theorem unwind_cases (fs : List Frame) (r : Res) (s : State) :
    (s.sp.st = .idle ∧ ∃ fs' t, Hosted s t ∧ State.unwind fs r s = { t with sp := s.sp.arm, task := some fs' }) ∨
    (∃ r' t, Hosted s t ∧ State.unwind fs r s = { t with task := none, reports := s.reports ++ [⟨.owner, r'⟩] }) := by
  induction fs generalizing r s with
  | nil => exact .inr ⟨r, s, .refl s, by simp [State.unwind, State.report]⟩
  | cons f fs ih =>
    rcases resume_cases f r s with ⟨hst, fs', t, ht, h⟩ | ⟨r', t, ht, h⟩ <;> simp only [State.unwind, h]
    · exact .inl ⟨hst, fs' ++ fs, t, ht, rfl⟩
    · have hsp := ht.sp_reports
      rcases ih r' t with ⟨hst, fs', u, hu, h'⟩ | ⟨r'', u, hu, h'⟩
      · exact .inl ⟨hsp.1 ▸ hst, fs', u, ht.trans hu, by rw [h', hsp.1]⟩
      · exact .inr ⟨r'', u, ht.trans hu, by rw [h', hsp.2]⟩

/-! The framer. -/

/-- An outcome comes exactly when the framer goes back to `IDLE`. -/
theorem framer_step_outcome (f : Framer) (e : ChanEvent) (h : f.st ≠ .idle) :
    ((f.step e).2.isSome ↔ (f.step e).1.st = .idle) := by
  unfold Framer.step
  simp only [h, if_false]
  cases e with
  | timeout => simp
  | fail => simp
  | byte b =>
    simp only [Framer.onByte, Framer.startPayload]
    rcases hs : f.st with _ | _ | _ | _ | _ | _ | _
    · exact absurd hs h
    all_goals (repeat' split) <;> simp_all

/-- In `IDLE` the framer takes nothing. -/
theorem framer_step_idle (f : Framer) (e : ChanEvent) (h : f.st = .idle) : f.step e = (f, none) := by
  simp [Framer.step, h]

/-! The stream reader. -/

/-- The scan of the stream buffer goes on from where it was with the part already passed. -/
theorem muxScan_rest (subs : List Topic) (promisc : Bool) (raw buf : Bytes) (hraw : Config.muxDelim ∉ raw)
    (h : (muxScan subs promisc raw buf).1 = none) : Config.muxDelim ∉ (muxScan subs promisc raw buf).2 := by
  induction buf generalizing raw with
  | nil => simpa [muxScan] using hraw
  | cons b bs ih =>
    unfold muxScan at h ⊢
    split at h <;> rename_i hb
    · split at h <;> rename_i ha
      · simp at h
      · rw [if_pos hb]; exact ih [] (by simp) h
    · rw [if_neg hb]
      exact ih _ (by simp [hraw, Ne.symm hb]) h

/-- A scan over bytes without a delimiter finds nothing and keeps them all. -/
theorem muxScan_no_delim (subs : List Topic) (promisc : Bool) (raw buf : Bytes) (h : Config.muxDelim ∉ buf) :
    muxScan subs promisc raw buf = (none, raw ++ buf) := by
  induction buf generalizing raw with
  | nil => simp [muxScan]
  | cons b bs ih =>
    simp only [List.mem_cons, not_or] at h
    rw [muxScan, if_neg (Ne.symm h.1), ih _ h.2]
    simp

/-- What the poll can do: deliver, raise `Cancelled`, or wait with a buffer that holds no delimiter. -/
theorem readerPoll_cases (s : State) :
    ∃ buf,
      (∃ f : Topic × Bytes, s.readerPoll =
        { s with mux := { s.mux with buf := buf }, reading := false,
                 reports := s.reports ++ [⟨.reader, .ok (.frame f.1 f.2)⟩] }) ∨
      (s.mux.cancel = true ∧ s.readerPoll =
        { s with mux := { s.mux with buf := buf }, reading := false,
                 reports := s.reports ++ [⟨.reader, .error .cancelled⟩] }) ∨
      (s.mux.cancel = false ∧ Config.muxDelim ∉ buf ∧
        s.readerPoll = { s with mux := { s.mux with buf := buf }, reading := true }) := by
  have hrest := muxScan_rest s.mux.subs s.mux.promisc [] s.mux.buf (by simp)
  unfold State.readerPoll
  rcases hx : muxScan s.mux.subs s.mux.promisc [] s.mux.buf with ⟨o, buf⟩
  rw [hx] at hrest
  refine ⟨buf, ?_⟩
  cases o with
  | some f => left; exact ⟨f, by simp [State.report]⟩
  | none =>
    right
    cases hc : s.mux.cancel
    · right; simp [hrest rfl]
    · left; simp [State.report]

/-! The events. -/

/-- The waiting operations stop only when none waits or no event is left. -/
theorem drain_done (es : List Event) (s : State) (h : s.chan.rx = es) :
    (State.drain es s).waiting = false ∨ (State.drain es s).chan.rx = [] := by
  induction es generalizing s with
  | nil => right; simpa [State.drain] using h
  | cons e es ih =>
    unfold State.drain
    split <;> rename_i hw
    · apply ih
      cases e with
      | cancel =>
        simp only [State.takeEvent, State.cancelEvent]
        split <;> simp
      | chan e =>
        have hframer : ∀ t : State, (t.framerEvent e).chan.rx = t.chan.rx := by
          intro t
          unfold State.framerEvent
          dsimp only
          split
          · rename_i o fs _ _
            obtain ⟨-, fs', u, ⟨_, _, _, _, _, _, _, _, -, -, rfl⟩, h⟩ | ⟨r', u, ⟨_, _, _, _, _, _, _, _, -, -, rfl⟩, h⟩ :=
              unwind_cases fs (resOf .packet o) { t with sp := (t.sp.step e).1 } <;> rw [h]
          · rfl
        have hreader : ∀ t : State, (t.readerEvent e).chan.rx = t.chan.rx := by
          intro t
          unfold State.readerEvent
          split
          · rename_i b
            obtain ⟨buf, ⟨f, h⟩ | ⟨-, h⟩ | ⟨-, -, h⟩⟩ :=
              readerPoll_cases { t with mux := { t.mux with buf := t.mux.buf ++ [b] } } <;> rw [h]
          · rfl
          · rfl
        unfold State.takeEvent
        dsimp only
        split
        · split
          · rw [hreader]
          · rw [hframer]
        · split
          · rw [hreader]
          · rw [hframer]
    · left; simpa using hw

/-- After the waiting operations have gone on, none waits or the channel is empty. -/
theorem settle_done (s : State) : s.settle.waiting = false ∨ s.settle.chan.rx = [] := drain_done _ _ rfl

/-- With nothing waiting, nothing is consumed. -/
theorem settle_of_not_waiting (s : State) (h : s.waiting = false) : s.settle = s := by
  unfold State.settle
  cases s.chan.rx <;> simp [State.drain, h]

/-- With no event in the channel, nothing happens. -/
theorem settle_of_empty (s : State) (h : s.chan.rx = []) : s.settle = s := by
  simp [State.settle, h, State.drain]

/-- Events that arrive while nothing waits join the channel's receive stream. -/
theorem arrive_of_not_waiting (es : List Event) (s : State) (h : s.waiting = false) :
    s.arrive es = { s with chan := { s.chan with rx := s.chan.rx ++ es } } := by
  have hw : State.waiting { s with chan := { s.chan with rx := s.chan.rx ++ es } } = false := by
    simpa [State.waiting, State.framing] using h
  simp [State.arrive, settle_of_not_waiting _ hw]

/-! The step. -/

/-- A step with a decoded instruction at the port is that instruction, the port moved past its bytes. -/
theorem step_of_decode (s : State) (i : Instr) (rest : Bytes) (ha : s.chan.alive = true) (hr : s.resetAsked = false)
    (hp : s.port ≠ []) (h : decode s.params s.port = .ok (i, rest)) : step s = exec i { s with port := rest } := by
  simp [step, ha, hr, hp, fetch, h]

end Sys2Proof.Machine
end

