-- ==== Sys2Proof/Laws/PerInstr.lean ====
section
/-! SUPPORT. A law of every instruction's encoding, one lemma for each constructor: it begins with the byte of a format
space and the row's own first byte, so the port is never empty in front of an instruction. -/

namespace Sys2Proof.Laws

/-- The encoding of an instruction has at least two bytes, the first of them one of the eleven format spaces (log 1). -/
def Encoded.Statement (i : Instr) : Prop :=
  ∀ p : Params, ∃ space first rest, encode p i = space :: first :: rest ∧ space.toNat ≤ 10

theorem Encoded.crcBuild (width : Nat) (poly : Nat) : Encoded.Statement (.crcBuild width poly) :=
  fun _ => ⟨_, _, _, rfl, by decide⟩

theorem Encoded.crcUpd (width : Nat) (table : TableRef) (acc : Nat) (b : Byte) : Encoded.Statement (.crcUpd width table acc b) :=
  fun _ => ⟨_, _, _, rfl, by decide⟩

theorem Encoded.crcCompute (width : Nat) (table : TableRef) (bytes : Bytes) (initial : Nat) : Encoded.Statement (.crcCompute width table bytes initial) :=
  fun _ => ⟨_, _, _, rfl, by decide⟩

theorem Encoded.crc16Compute (bytes : Bytes) (initial : BitVec 16) : Encoded.Statement (.crc16Compute bytes initial) :=
  fun _ => ⟨_, _, _, rfl, by decide⟩

theorem Encoded.crc32Compute (bytes : Bytes) (initial : BitVec 32) : Encoded.Statement (.crc32Compute bytes initial) :=
  fun _ => ⟨_, _, _, rfl, by decide⟩

theorem Encoded.spTx (cmd : Byte) (payload : Bytes) : Encoded.Statement (.spTx cmd payload) :=
  fun _ => ⟨_, _, _, rfl, by decide⟩

theorem Encoded.spRx : Encoded.Statement .spRx :=
  fun _ => ⟨_, _, _, rfl, by decide⟩

theorem Encoded.spStep (e : ChanEvent) : Encoded.Statement (.spStep e) :=
  fun _ => ⟨_, _, _, rfl, by decide⟩

theorem Encoded.extLenEnc (len : Nat) : Encoded.Statement (.extLenEnc len) :=
  fun _ => ⟨_, _, _, rfl, by decide⟩

theorem Encoded.extLenDec (bytes : Bytes) : Encoded.Statement (.extLenDec bytes) :=
  fun _ => ⟨_, _, _, rfl, by decide⟩

theorem Encoded.extTx (sub : Byte) (payload : Bytes) : Encoded.Statement (.extTx sub payload) :=
  fun _ => ⟨_, _, _, rfl, by decide⟩

theorem Encoded.extDecode (p : Packet) (sub : Byte) (checks : Checks) : Encoded.Statement (.extDecode p sub checks) :=
  fun _ => ⟨_, _, _, rfl, by decide⟩

theorem Encoded.extRx (sub : Byte) (checks : Checks) : Encoded.Statement (.extRx sub checks) :=
  fun _ => ⟨_, _, _, rfl, by decide⟩

theorem Encoded.ackDecode (b : Byte) : Encoded.Statement (.ackDecode b) :=
  fun _ => ⟨_, _, _, rfl, by decide⟩

theorem Encoded.cobsDecode (bytes : Bytes) : Encoded.Statement (.cobsDecode bytes) :=
  fun _ => ⟨_, _, _, rfl, by decide⟩

theorem Encoded.cobsEncode (bytes : Bytes) : Encoded.Statement (.cobsEncode bytes) :=
  fun _ => ⟨_, _, _, rfl, by decide⟩

theorem Encoded.muxSub (topic : Bytes) : Encoded.Statement (.muxSub topic) :=
  fun _ => ⟨_, _, _, rfl, by decide⟩

theorem Encoded.muxUnsub (topic : Bytes) : Encoded.Statement (.muxUnsub topic) :=
  fun _ => ⟨_, _, _, rfl, by decide⟩

theorem Encoded.muxPromisc (v : Bool) : Encoded.Statement (.muxPromisc v) :=
  fun _ => ⟨_, _, _, rfl, by decide⟩

theorem Encoded.muxRead : Encoded.Statement .muxRead :=
  fun _ => ⟨_, _, _, rfl, by decide⟩

theorem Encoded.muxWrite (bytes : Bytes) : Encoded.Statement (.muxWrite bytes) :=
  fun _ => ⟨_, _, _, rfl, by decide⟩

theorem Encoded.muxCancel : Encoded.Statement .muxCancel :=
  fun _ => ⟨_, _, _, rfl, by decide⟩

theorem Encoded.extXchg (sub : Byte) (payload : Bytes) (checks : Checks) : Encoded.Statement (.extXchg sub payload checks) :=
  fun _ => ⟨_, _, _, rfl, by decide⟩

theorem Encoded.ftInit (args : InitArgs) : Encoded.Statement (.ftInit args) :=
  fun _ => ⟨_, _, _, rfl, by decide⟩

theorem Encoded.ftWrite (address : Nat) (data : Bytes) : Encoded.Statement (.ftWrite address data) :=
  fun _ => ⟨_, _, _, rfl, by decide⟩

theorem Encoded.ftRead (address : Nat) (n : Nat) (checks : Checks) : Encoded.Statement (.ftRead address n checks) :=
  fun _ => ⟨_, _, _, rfl, by decide⟩

theorem Encoded.ftComplete (run : RunOption) : Encoded.Statement (.ftComplete run) :=
  fun _ => ⟨_, _, _, rfl, by decide⟩

theorem Encoded.ftUpload (args : UploadArgs) : Encoded.Statement (.ftUpload args) :=
  fun _ => ⟨_, _, _, rfl, by decide⟩

theorem Encoded.ftDownload (args : DownloadArgs) : Encoded.Statement (.ftDownload args) :=
  fun _ => ⟨_, _, _, rfl, by decide⟩

theorem Encoded.retry (op : HostOp) (policy : RetryPolicy) : Encoded.Statement (.retry op policy) :=
  fun _ => ⟨_, _, _, rfl, by decide⟩

theorem Encoded.classify (e : Err) : Encoded.Statement (.classify e) :=
  fun _ => ⟨_, _, _, rfl, by decide⟩

theorem Encoded.fSptxHeader (cmd : Byte) (payload : Bytes) : Encoded.Statement (.fSptxHeader cmd payload) :=
  fun _ => ⟨_, _, _, rfl, by decide⟩

theorem Encoded.fSprxShort (cmd : Byte) (payload : Bytes) : Encoded.Statement (.fSprxShort cmd payload) :=
  fun _ => ⟨_, _, _, rfl, by decide⟩

theorem Encoded.fSprxLong (payload : Bytes) : Encoded.Statement (.fSprxLong payload) :=
  fun _ => ⟨_, _, _, rfl, by decide⟩

theorem Encoded.fLenShort (len : BitVec 7) : Encoded.Statement (.fLenShort len) :=
  fun _ => ⟨_, _, _, rfl, by decide⟩

theorem Encoded.fLenLong (len : BitVec 15) : Encoded.Statement (.fLenLong len) :=
  fun _ => ⟨_, _, _, rfl, by decide⟩

theorem Encoded.fExtTx (sub : Byte) (payload : Bytes) : Encoded.Statement (.fExtTx sub payload) :=
  fun _ => ⟨_, _, _, rfl, by decide⟩

theorem Encoded.fExtRx (sub : Byte) (payload : Bytes) : Encoded.Statement (.fExtRx sub payload) :=
  fun _ => ⟨_, _, _, rfl, by decide⟩

theorem Encoded.fMuxDelim : Encoded.Statement .fMuxDelim :=
  fun _ => ⟨_, _, _, rfl, by decide⟩

theorem Encoded.fMuxFrame (topic : Topic) (payload : Bytes) : Encoded.Statement (.fMuxFrame topic payload) :=
  fun _ => ⟨_, _, _, rfl, by decide⟩

theorem Encoded.fCobsBlock (data : Bytes) : Encoded.Statement (.fCobsBlock data) :=
  fun _ => ⟨_, _, _, rfl, by decide⟩

theorem Encoded.cmdExt : Encoded.Statement .cmdExt :=
  fun _ => ⟨_, _, _, rfl, by decide⟩

theorem Encoded.ack : Encoded.Statement .ack :=
  fun _ => ⟨_, _, _, rfl, by decide⟩

theorem Encoded.subFtInit (payload : Bytes) (checks : Checks) : Encoded.Statement (.subFtInit payload checks) :=
  fun _ => ⟨_, _, _, rfl, by decide⟩

theorem Encoded.subFtComplete (payload : Bytes) (checks : Checks) : Encoded.Statement (.subFtComplete payload checks) :=
  fun _ => ⟨_, _, _, rfl, by decide⟩

theorem Encoded.subFtWrite (payload : Bytes) (checks : Checks) : Encoded.Statement (.subFtWrite payload checks) :=
  fun _ => ⟨_, _, _, rfl, by decide⟩

theorem Encoded.subFtRead (payload : Bytes) (checks : Checks) : Encoded.Statement (.subFtRead payload checks) :=
  fun _ => ⟨_, _, _, rfl, by decide⟩

theorem Encoded.subFtSetLink (payload : Bytes) (checks : Checks) : Encoded.Statement (.subFtSetLink payload checks) :=
  fun _ => ⟨_, _, _, rfl, by decide⟩

theorem Encoded.subDirCount (payload : Bytes) (checks : Checks) : Encoded.Statement (.subDirCount payload checks) :=
  fun _ => ⟨_, _, _, rfl, by decide⟩

theorem Encoded.subDirEntry (payload : Bytes) (checks : Checks) : Encoded.Statement (.subDirEntry payload checks) :=
  fun _ => ⟨_, _, _, rfl, by decide⟩

theorem Encoded.subExecFile (payload : Bytes) (checks : Checks) : Encoded.Statement (.subExecFile payload checks) :=
  fun _ => ⟨_, _, _, rfl, by decide⟩

theorem Encoded.subFileMetaGet (payload : Bytes) (checks : Checks) : Encoded.Statement (.subFileMetaGet payload checks) :=
  fun _ => ⟨_, _, _, rfl, by decide⟩

theorem Encoded.subFileMetaSet (payload : Bytes) (checks : Checks) : Encoded.Statement (.subFileMetaSet payload checks) :=
  fun _ => ⟨_, _, _, rfl, by decide⟩

theorem Encoded.subFileErase (payload : Bytes) (checks : Checks) : Encoded.Statement (.subFileErase payload checks) :=
  fun _ => ⟨_, _, _, rfl, by decide⟩

theorem Encoded.subSlotGet (payload : Bytes) (checks : Checks) : Encoded.Statement (.subSlotGet payload checks) :=
  fun _ => ⟨_, _, _, rfl, by decide⟩

theorem Encoded.subSysStatus (payload : Bytes) (checks : Checks) : Encoded.Statement (.subSysStatus payload checks) :=
  fun _ => ⟨_, _, _, rfl, by decide⟩

theorem Encoded.subScreenCapInit (payload : Bytes) (checks : Checks) : Encoded.Statement (.subScreenCapInit payload checks) :=
  fun _ => ⟨_, _, _, rfl, by decide⟩

theorem Encoded.subOther (sub : Byte) (payload : Bytes) (checks : Checks) : Encoded.Statement (.subOther sub payload checks) :=
  fun _ => ⟨_, _, _, rfl, by decide⟩

theorem Encoded.nackGeneral : Encoded.Statement .nackGeneral :=
  fun _ => ⟨_, _, _, rfl, by decide⟩

theorem Encoded.nackCrcError : Encoded.Statement .nackCrcError :=
  fun _ => ⟨_, _, _, rfl, by decide⟩

theorem Encoded.nackPayloadTooSmall : Encoded.Statement .nackPayloadTooSmall :=
  fun _ => ⟨_, _, _, rfl, by decide⟩

theorem Encoded.nackRequestTooLarge : Encoded.Statement .nackRequestTooLarge :=
  fun _ => ⟨_, _, _, rfl, by decide⟩

theorem Encoded.nackProgramCrcError : Encoded.Statement .nackProgramCrcError :=
  fun _ => ⟨_, _, _, rfl, by decide⟩

theorem Encoded.nackProgramFileError : Encoded.Statement .nackProgramFileError :=
  fun _ => ⟨_, _, _, rfl, by decide⟩

theorem Encoded.nackUninitializedTransfer : Encoded.Statement .nackUninitializedTransfer :=
  fun _ => ⟨_, _, _, rfl, by decide⟩

theorem Encoded.nackInvalidInitForFunction : Encoded.Statement .nackInvalidInitForFunction :=
  fun _ => ⟨_, _, _, rfl, by decide⟩

theorem Encoded.nackDataNotMultipleOf4 : Encoded.Statement .nackDataNotMultipleOf4 :=
  fun _ => ⟨_, _, _, rfl, by decide⟩

theorem Encoded.nackAddressMismatch : Encoded.Statement .nackAddressMismatch :=
  fun _ => ⟨_, _, _, rfl, by decide⟩

theorem Encoded.nackLengthMismatch : Encoded.Statement .nackLengthMismatch :=
  fun _ => ⟨_, _, _, rfl, by decide⟩

theorem Encoded.nackDirectoryEntryMissing : Encoded.Statement .nackDirectoryEntryMissing :=
  fun _ => ⟨_, _, _, rfl, by decide⟩

theorem Encoded.nackMaxFilesReached : Encoded.Statement .nackMaxFilesReached :=
  fun _ => ⟨_, _, _, rfl, by decide⟩

theorem Encoded.nackFileExists : Encoded.Statement .nackFileExists :=
  fun _ => ⟨_, _, _, rfl, by decide⟩

theorem Encoded.nackOther (b : Byte) : Encoded.Statement (.nackOther b) :=
  fun _ => ⟨_, _, _, rfl, by decide⟩

end Sys2Proof.Laws
end

