-- ==== Sys2Proof/Laws/Topics.lean ====
section
/-! SUPPORT. The subscription set: what its two updates hold, and that they keep its one form. -/

namespace Sys2Proof.Machine

/-- A tag's key tells it from every other tag. -/
theorem topic_key_inj (t u : Topic) (h : t.key = u.key) : t = u := by
  obtain ⟨a, b, c, d⟩ := t
  obtain ⟨a', b', c', d'⟩ := u
  simp only [Topic.key, Topic.bytes, beNat, List.foldl_cons, List.foldl_nil] at h
  have := a.isLt; have := b.isLt; have := c.isLt; have := d.isLt
  have := a'.isLt; have := b'.isLt; have := c'.isLt; have := d'.isLt
  simp only [Topic.mk.injEq, ← BitVec.toNat_inj]
  omega

theorem rising_tail (t : Topic) (ts : List Topic) (h : rising (t :: ts) = true) : rising ts = true := by
  cases ts with
  | nil => rfl
  | cons u us => simp only [rising, Bool.and_eq_true] at h; exact h.2

theorem mem_insertTopic (t u : Topic) (subs : List Topic) : u ∈ insertTopic t subs ↔ u = t ∨ u ∈ subs := by
  induction subs with
  | nil => simp [insertTopic]
  | cons v vs ih =>
    unfold insertTopic
    split <;> rename_i h
    · subst h; simp
    · split
      · simp
      · simp only [List.mem_cons, ih]; tauto

theorem mem_removeTopic (t u : Topic) (subs : List Topic) : u ∈ removeTopic t subs ↔ u ≠ t ∧ u ∈ subs := by
  simp [removeTopic, and_comm]

/-- The set is kept strictly rising exactly when its keys are sorted. -/
theorem rising_iff (ts : List Topic) : rising ts = true ↔ ts.Pairwise (fun a b => a.key < b.key) := by
  induction ts with
  | nil => simp [rising]
  | cons t ts ih =>
    cases ts with
    | nil => simp [rising]
    | cons u us =>
      simp only [rising, Bool.and_eq_true, decide_eq_true_eq, ih, List.pairwise_cons (a := t)]
      constructor
      · rintro ⟨h, hp⟩
        refine ⟨?_, hp⟩
        intro v hv
        rcases List.mem_cons.mp hv with rfl | hv
        · exact h
        · exact h.trans ((List.pairwise_cons.mp hp).1 v hv)
      · rintro ⟨h, hp⟩
        exact ⟨h u (by simp), hp⟩

theorem insertTopic_rising (t : Topic) (subs : List Topic) (h : rising subs = true) :
    rising (insertTopic t subs) = true := by
  rw [rising_iff] at h ⊢
  induction subs with
  | nil => simp [insertTopic]
  | cons v vs ih =>
    have hv := List.pairwise_cons.mp h
    unfold insertTopic
    split <;> rename_i hne
    · exact h
    · split <;> rename_i hlt
      · refine List.pairwise_cons.mpr ⟨?_, h⟩
        intro u hu
        rcases List.mem_cons.mp hu with rfl | hu
        · exact hlt
        · exact hlt.trans (hv.1 u hu)
      · refine List.pairwise_cons.mpr ⟨?_, ih hv.2⟩
        intro u hu
        rcases (mem_insertTopic t u vs).mp hu with rfl | hu
        · have : u.key ≠ v.key := fun hk => hne (topic_key_inj _ _ hk)
          omega
        · exact hv.1 u hu

theorem removeTopic_rising (t : Topic) (subs : List Topic) (h : rising subs = true) :
    rising (removeTopic t subs) = true := by
  rw [rising_iff] at h ⊢
  exact h.filter _

end Sys2Proof.Machine
end

