-- ==== Sys2Proof/Tests/Slice0.lean ====
section
/-! SUPPORT. The tests: ill-formed terms that `Instr.wellFormed` refuses, words of every row written out from the spec's
encodings, steps with their expected results from spec/95_test_vectors.md (the vector's name stands in the comment), and a
witness for the hypotheses of every statement. -/

open Sys2Proof Sys2Proof.Machine

namespace Sys2Proof.Tests

set_option maxRecDepth 20000
-- One theorem at a time: many short tests checked at once ask for more threads than the memory limit leaves.
set_option Elab.async false

/-! Helpers. -/

/-- The instruction that exactly these bytes of the port encode, with the default parameters. -/
def dec (bytes : Bytes) : Option Instr :=
  match decode Params.default bytes with
  | .ok (i, []) => some i
  | _ => none

/-- The outcome that an instruction hands over last. -/
def res (o : Answer) : Option Res := (nextOf o).bind fun t => t.reports.getLast?.map (·.res)

/-- The bytes an instruction has written. -/
def sent (o : Answer) : Option Bytes := (nextOf o).map fun t => t.chan.tx

/-- A state with these events in the channel. -/
def heard (es : List Event) (s : State) : State := { s with chan := { s.chan with rx := es } }

/-- Stand-in layouts: an address of two bytes before the data, one byte for each reply field. -/
def small : Layouts where
  init := [.padded .name 24 0x00, .int .function 1, .int .length 2, .int .crc 4]
  write := [.int .address 2, .blob .data]
  read := [.int .address 2, .int .size 2]
  complete := [.int .run 1]
  uploadCode := 1
  downloadCode := 2
  flashCode := 1
  ramCode := 4
  screenCode := 5
  dontRunCode := 0
  runNowCode := 1
  runAndShowCode := 3
  initReplyLen := 3
  maxPacketSize := ⟨0, 1⟩
  fileSize := ⟨1, 1⟩
  deviceCrc := ⟨2, 1⟩
  readSkip := 0

/-- The state after reset, with the stand-in layouts and two more tries of a legacy handshake. -/
def base : State := { State.reset with params := { Params.default with layouts := small, bootExtraTries := 2 } }

/-- The check string of vector K9. -/
def digits : Bytes := [0x31, 0x32, 0x33, 0x34, 0x35, 0x36, 0x37, 0x38, 0x39]

/-- The topics of 43_mux_stream R177. -/
def sout : Topic := ⟨0x73, 0x6F, 0x75, 0x74⟩
def serr : Topic := ⟨0x73, 0x65, 0x72, 0x72⟩

/-- A receive in progress: `SP.RX` waits in `HUNT0`. -/
def hunting (fs : List Frame) (s : State) : State := { s with sp := { s.sp with st := .hunt0, raw := [] }, task := some fs }

/-- The switches of an exchange that checks nothing. -/
def noChecks : Checks := ⟨false, false, 0⟩

/-- Operands of `FT.INIT`. -/
def initArgs : InitArgs := ⟨[0x61], .upload, .flash, 1, 5, 0x100, 7, true, [], 0, 0⟩

/-- Operands of `FT.UPLOAD`: five bytes in chunks of four. -/
def upArgs : UploadArgs := ⟨[0x61], [1, 2, 3, 4, 5], .flash, 1, 0x100, true, [], 0, 0, .runNow, 4⟩

/-- Operands of `FT.DOWNLOAD`: five bytes in chunks of four. -/
def downArgs : DownloadArgs := ⟨[0x61], 5, .flash, 1, 0x100, true, [], 0, 0, ⟨true, false, 0⟩, 4⟩

/-! Ill-formed terms, one for each check of WellFormed. -/

/-- The instruction is refused. -/
def ill (i : Instr) : Bool := !(i.wellFormed Params.default)

theorem test_ill_crc_numbers : ill (.crcBuild 65536 0) && ill (.crcBuild 16 (2 ^ 64)) && ill (.crcUpd 7 ⟨16, 1⟩ 0 0) &&
    ill (.crcUpd 65544 ⟨16, 1⟩ 0 0) && ill (.crcUpd 16 ⟨7, 1⟩ 0 0) && ill (.crcUpd 16 ⟨65544, 1⟩ 0 0) &&
    ill (.crcUpd 16 ⟨16, 2 ^ 64⟩ 0 0) && ill (.crcUpd 16 ⟨16, 1⟩ (2 ^ 64) 0) && ill (.crcCompute 7 ⟨16, 1⟩ [] 0) &&
    ill (.crcCompute 65544 ⟨16, 1⟩ [] 0) && ill (.crcCompute 16 ⟨7, 1⟩ [] 0) && ill (.crcCompute 16 ⟨16, 1⟩ [] (2 ^ 64)) = true := by
  decide +kernel

theorem test_ill_packets_and_switches : ill (.extLenEnc (2 ^ 32)) && ill (.extDecode ⟨0x56, [1], [0xAA, 0x55], 1⟩ 0 noChecks) &&
    ill (.extDecode ⟨0x56, [], [], 256⟩ 0 noChecks) && ill (.extDecode ⟨0x56, [], [], 0⟩ 0 ⟨false, true, 32768⟩) &&
    ill (.extRx 0 ⟨false, true, 32768⟩) && ill (.extXchg 0 [] ⟨false, true, 32768⟩) &&
    ill (.subFtRead [] ⟨false, true, 32768⟩) && ill (.subOther 0x11 [] noChecks) = true := by decide +kernel

theorem test_ill_transfers : ill (.ftInit { initArgs with volume := 2 ^ 32 }) && ill (.ftInit { initArgs with length := 2 ^ 32 }) &&
    ill (.ftInit { initArgs with address := 2 ^ 32 }) && ill (.ftInit { initArgs with timestamp := 2 ^ 32 }) &&
    ill (.ftInit { initArgs with version := 2 ^ 32 }) && ill (.ftWrite (2 ^ 32) []) && ill (.ftRead (2 ^ 32) 1 noChecks) &&
    ill (.ftRead 0 (2 ^ 32) noChecks) && ill (.ftRead 0 1 ⟨false, true, 32768⟩) && ill (.ftUpload { upArgs with chunk := 0 }) &&
    ill (.ftUpload { upArgs with chunk := 65537 }) && ill (.ftUpload { upArgs with volume := 2 ^ 32 }) &&
    ill (.ftUpload { upArgs with address := 2 ^ 32 }) && ill (.ftUpload { upArgs with timestamp := 2 ^ 32 }) &&
    ill (.ftUpload { upArgs with version := 2 ^ 32 }) && ill (.ftDownload { downArgs with chunk := 0 }) &&
    ill (.ftDownload { downArgs with chunk := 65537 }) && ill (.ftDownload { downArgs with length := 2 ^ 32 }) &&
    ill (.ftDownload { downArgs with checks := ⟨false, true, 32768⟩ }) && ill (.ftDownload { downArgs with volume := 2 ^ 32 }) &&
    ill (.ftDownload { downArgs with address := 2 ^ 32 }) && ill (.ftDownload { downArgs with timestamp := 2 ^ 32 }) &&
    ill (.ftDownload { downArgs with version := 2 ^ 32 }) = true := by decide +kernel

/-- The retry policy of the spec's defaults, with this many attempts. -/
def tries (n : Nat) : RetryPolicy := ⟨n, .classify⟩

theorem test_ill_retry_and_classify : ill (.retry (.complete .dontRun) (tries 0)) && ill (.retry (.complete .dontRun) (tries 257)) &&
    ill (.retry (.xchg 0 [] ⟨false, true, 32768⟩) (tries 1)) && ill (.retry (.init { initArgs with volume := 2 ^ 32 }) (tries 1)) &&
    ill (.retry (.write (2 ^ 32) []) (tries 1)) && ill (.retry (.read 0 (2 ^ 32) noChecks) (tries 1)) &&
    ill (.retry (.upload { upArgs with chunk := 0 }) (tries 1)) && ill (.retry (.download { downArgs with chunk := 0 }) (tries 1)) &&
    ill (.retry (.command 0x18 [] ⟨false, true, 32768⟩) (tries 1)) && ill (.retry (.status [] ⟨false, true, 32768⟩) (tries 1)) &&
    ill (.retry (.boot (.programWrite 0 (List.replicate 257 7))) (tries 1)) && ill (.retry (.boot (.programWrite (2 ^ 32) [])) (tries 1)) &&
    ill (.retry (.boot (.erase (.pages [2 ^ 32]))) (tries 1)) && ill (.retry (.boot (.jump (2 ^ 32))) (tries 1)) &&
    ill (.retry (.complete .dontRun) ⟨1, .these [] [.lengthOverflow (2 ^ 32)]⟩) &&
    ill (.classify (.lengthOverflow (2 ^ 32))) && ill (.classify (.invalidWidth (2 ^ 32))) = true := by decide +kernel

theorem test_ill_wire_formats : ill (.fSprxShort 0x21 (List.replicate 256 0)) && ill (.fSprxShort 0x56 (List.replicate 128 0)) &&
    ill (.fCobsBlock (List.replicate 255 1)) && ill (.fCobsBlock [1, 0]) && ill (.nackOther 0xD9) && ill (.nackOther 0x76) &&
    !(Instr.ack.wellFormed { Params.default with ackByte := 0xD9 }) = true := by decide +kernel

theorem test_ill_overlong_frames (bs : Bytes) (h : 32768 ≤ bs.length) :
    ill (.fSprxLong bs) = true ∧ ill (.fExtTx 0 bs) = true ∧ ill (.fExtRx 0 bs) = true := by
  have h1 : decide (bs.length ≤ Config.extLenMax) = false := decide_eq_false (by show ¬ bs.length ≤ 32767; omega)
  have h2 : decide (bs.length ≤ replyMax Params.default) = false := decide_eq_false (by show ¬ bs.length ≤ 32762; omega)
  refine ⟨?_, ?_, ?_⟩
  · show (!decide (bs.length ≤ Config.extLenMax)) = true
    rw [h1]; rfl
  · show (!decide (bs.length ≤ Config.extLenMax)) = true
    rw [h1]; rfl
  · show (!decide (bs.length ≤ replyMax Params.default)) = true
    rw [h2]; rfl

/-- No operand is a byte sequence that the port's length cannot announce. -/
theorem test_ill_overlong_bytes (bs : Bytes) (h : 2 ^ 32 ≤ bs.length) : ill (.spTx 0 bs) = true ∧ ill (.extTx 0 bs) = true ∧
    ill (.muxWrite bs) = true ∧ ill (.extLenDec bs) = true ∧ ill (.cobsDecode bs) = true ∧ ill (.cobsEncode bs) = true ∧
    ill (.muxSub bs) = true ∧ ill (.crc16Compute bs 0) = true ∧ ill (.fMuxFrame sout bs) = true := by
  have hb : fitsBytes bs = false := decide_eq_false (by omega)
  simp [ill, Instr.wellFormed, hb]

/-! Words written out from the spec's encodings: an operation's selector (30_encoding R80, R81) and then its operands as log 1
lays them out; the wire formats' own bytes (30_encoding R64 to R73) and code bytes (R74 to R76). The first byte is the format
space (log 1). -/

theorem test_decode_crc :
    dec [0, 0, 0x00, 0x10, 0, 0, 0, 0, 0, 0, 0x10, 0x21] = some (.crcBuild 16 0x1021) ∧
    dec [0, 1, 0x00, 0x08, 0x00, 0x08, 0, 0, 0, 0, 0, 0, 0x10, 0x21, 0, 0, 0, 0, 0, 0, 0x26, 0x72, 0x32] = some (.crcUpd 16 ⟨16, 0x1021⟩ 0x2672 0x32) ∧
    dec [0, 2, 0x00, 0x00, 0x00, 0x00, 0, 0, 0, 0, 0, 0, 0, 0x07, 0, 0, 0, 0, 0, 0, 0, 0, 0, 0, 0, 1, 0x31] = some (.crcCompute 8 ⟨8, 0x07⟩ [0x31] 0) ∧
    dec [0, 3, 0xFF, 0xFE, 0, 0, 0, 2, 0x31, 0x32] = some (.crc16Compute [0x31, 0x32] 0xFFFE) ∧
    dec [0, 4, 0x01, 0x02, 0x03, 0x04, 0, 0, 0, 1, 0x31] = some (.crc32Compute [0x31] 0x01020304) := by
  decide +kernel

theorem test_decode_packets :
    dec [0, 5, 0x21, 0, 0, 0, 1, 0x99] = some (.spTx 0x21 [0x99]) ∧
    dec [0, 6] = some (.spRx) ∧
    dec [0, 7, 0, 0xAA] = some (.spStep (.byte 0xAA)) ∧
    dec [0, 7, 1, 0] = some (.spStep .timeout) ∧
    dec [0, 7, 2, 0] = some (.spStep .fail) ∧
    dec [0, 8, 0, 0, 0x7F, 0xFF] = some (.extLenEnc 32767) ∧
    dec [0, 9, 0, 0, 0, 2, 0x80, 0x05] = some (.extLenDec [0x80, 0x05]) ∧
    dec [0, 10, 0x22, 0, 0, 0, 0] = some (.extTx 0x22 []) ∧
    dec [0, 11, 0x21, 4, 0, 0, 0, 5, 0xAA, 0x55, 0x21, 0x01, 0x09, 0x19, 1, 0, 0x7F, 0xFF] = some (.extDecode ⟨0x21, [0x09], [0xAA, 0x55, 0x21, 0x01, 0x09], 4⟩ 0x19 ⟨true, false, 32767⟩) ∧
    dec [0, 12, 0x22, 0, 1, 0, 4] = some (.extRx 0x22 ⟨false, true, 4⟩) ∧
    dec [0, 13, 0xD9] = some (.ackDecode 0xD9) := by
  decide +kernel

theorem test_decode_stream :
    dec [0, 14, 0, 0, 0, 1, 0x01] = some (.cobsDecode [0x01]) ∧
    dec [0, 15, 0, 0, 0, 1, 0x00] = some (.cobsEncode [0x00]) ∧
    dec [0, 16, 0, 0, 0, 4, 0x73, 0x6F, 0x75, 0x74] = some (.muxSub [0x73, 0x6F, 0x75, 0x74]) ∧
    dec [0, 17, 0, 0, 0, 0] = some (.muxUnsub []) ∧
    dec [0, 18, 1] = some (.muxPromisc true) ∧
    dec [0, 19] = some (.muxRead) ∧
    dec [0, 20, 0, 0, 0, 3, 0x6C, 0x73, 0x0A] = some (.muxWrite [0x6C, 0x73, 0x0A]) ∧
    dec [0, 21] = some (.muxCancel) := by
  decide +kernel

theorem test_decode_host :
    dec [0, 22, 0x22, 0, 0, 0, 0, 1, 1, 0, 4] = some (.extXchg 0x22 [] ⟨true, true, 4⟩) ∧
    dec [0, 23, 0, 0, 0, 1, 0x61, 0, 0, 0, 0, 0, 1, 0, 0, 0, 5, 0, 0, 1, 0, 0, 0, 0, 7, 1, 0, 0, 0, 0, 0, 0, 0, 0, 0, 0, 0, 0] = some (.ftInit initArgs) ∧
    dec [0, 24, 0, 0, 1, 0, 0, 0, 0, 1, 0x09] = some (.ftWrite 0x100 [0x09]) ∧
    dec [0, 25, 0, 0, 1, 0, 0, 0, 0, 10, 1, 0, 0, 0] = some (.ftRead 0x100 10 ⟨true, false, 0⟩) ∧
    dec [0, 26, 2] = some (.ftComplete .runAndShow) ∧
    dec [0, 27, 0, 0, 0, 1, 0x61, 0, 0, 0, 5, 1, 2, 3, 4, 5, 0, 0, 0, 0, 1, 0, 0, 1, 0, 1, 0, 0, 0, 0, 0, 0, 0, 0, 0, 0, 0, 0, 1, 0, 3] = some (.ftUpload upArgs) ∧
    dec [0, 28, 0, 0, 0, 1, 0x61, 0, 0, 0, 5, 0, 0, 0, 0, 1, 0, 0, 1, 0, 1, 0, 0, 0, 0, 0, 0, 0, 0, 0, 0, 0, 0, 1, 0, 0, 0, 0, 3] = some (.ftDownload downArgs) ∧
    dec [0, 29, 2, 0, 4, 0] = some (.retry (.complete .dontRun) ⟨3, .classify⟩) ∧
    dec [0, 29, 0, 1, 0, 1, 12, 0, 1, 6, 0x42, 2, 0, 0, 0, 9, 0, 0, 0, 0] = some (.retry (.write 9 []) ⟨1, .these [.busy] [.unexpectedAck (some 0x42)]⟩) ∧
    dec [0, 29, 0, 0, 7, 0x18, 0, 0, 0, 0, 1, 0, 0, 0] = some (.retry (.command 0x18 [] ⟨true, false, 0⟩) ⟨1, .classify⟩) ∧
    dec [0, 29, 0, 0, 8, 0, 0, 0, 0, 1, 0, 0, 0] = some (.retry (.status [] ⟨true, false, 0⟩) ⟨1, .classify⟩) ∧
    dec [0, 29, 0, 0, 9, 2, 0, 2, 0, 0, 0, 5, 0, 0, 0, 6] = some (.retry (.boot (.erase (.pages [5, 6]))) ⟨1, .classify⟩) ∧
    dec [0, 29, 0, 0, 9, 3, 0, 0, 1, 0, 0, 2, 7, 8] = some (.retry (.boot (.programWrite 0x100 [7, 8])) ⟨1, .classify⟩) ∧
    dec [0, 29, 0, 0, 9, 4, 0, 0, 1, 0] = some (.retry (.boot (.jump 0x100)) ⟨1, .classify⟩) ∧
    dec [0, 30, 4, 0xDB] = some (.classify (.deviceRejected .fileExists)) ∧
    dec [0, 30, 6, 0x42] = some (.classify (.unexpectedAck (some 0x42))) := by
  decide +kernel

theorem test_decode_wire_formats :
    dec [1, 0xC9, 0x36, 0xB8, 0x47, 0x21, 0, 0, 0, 1, 0x99] = some (.fSptxHeader 0x21 [0x99]) ∧
    dec [2, 0xAA, 0x55, 0x21, 0x02, 0x10, 0x20] = some (.fSprxShort 0x21 [0x10, 0x20]) ∧
    dec [2, 0xAA, 0x55, 0x56, 0x80, 0x03, 0x01, 0x02, 0x03] = some (.fSprxLong [0x01, 0x02, 0x03]) ∧
    dec [3, 0x7F] = some (.fLenShort 127) ∧
    dec [3, 0x80, 0xC8] = some (.fLenLong 200) ∧
    dec [4, 0xC9, 0x36, 0xB8, 0x47, 0x56, 0x22, 0, 0, 0, 0] = some (.fExtTx 0x22 []) ∧
    dec [4, 0xAA, 0x55, 0x56, 0x19, 0, 0, 0, 1, 0xD9] = some (.fExtRx 0x19 [0xD9]) ∧
    dec [5, 0x00] = some (.fMuxDelim) ∧
    dec [6, 0x73, 0x6F, 0x75, 0x74, 0, 0, 0, 1, 0x41] = some (.fMuxFrame sout [0x41]) ∧
    dec [7, 0x03, 0x11, 0x22] = some (.fCobsBlock [0x11, 0x22]) ∧
    dec [8, 0x56] = some (.cmdExt) := by
  decide +kernel

theorem test_decode_sub_commands :
    dec [10, 0x11, 0, 0, 0, 1, 0x99, 1, 0, 0, 0] = some (.subFtInit [0x99] ⟨true, false, 0⟩) ∧
    dec [10, 0x12, 0, 0, 0, 1, 0x99, 1, 0, 0, 0] = some (.subFtComplete [0x99] ⟨true, false, 0⟩) ∧
    dec [10, 0x13, 0, 0, 0, 1, 0x99, 1, 0, 0, 0] = some (.subFtWrite [0x99] ⟨true, false, 0⟩) ∧
    dec [10, 0x14, 0, 0, 0, 1, 0x99, 1, 0, 0, 0] = some (.subFtRead [0x99] ⟨true, false, 0⟩) ∧
    dec [10, 0x15, 0, 0, 0, 1, 0x99, 1, 0, 0, 0] = some (.subFtSetLink [0x99] ⟨true, false, 0⟩) ∧
    dec [10, 0x16, 0, 0, 0, 1, 0x99, 1, 0, 0, 0] = some (.subDirCount [0x99] ⟨true, false, 0⟩) ∧
    dec [10, 0x17, 0, 0, 0, 1, 0x99, 1, 0, 0, 0] = some (.subDirEntry [0x99] ⟨true, false, 0⟩) ∧
    dec [10, 0x18, 0, 0, 0, 1, 0x99, 1, 0, 0, 0] = some (.subExecFile [0x99] ⟨true, false, 0⟩) ∧
    dec [10, 0x19, 0, 0, 0, 1, 0x99, 1, 0, 0, 0] = some (.subFileMetaGet [0x99] ⟨true, false, 0⟩) ∧
    dec [10, 0x1A, 0, 0, 0, 1, 0x99, 1, 0, 0, 0] = some (.subFileMetaSet [0x99] ⟨true, false, 0⟩) ∧
    dec [10, 0x1B, 0, 0, 0, 1, 0x99, 1, 0, 0, 0] = some (.subFileErase [0x99] ⟨true, false, 0⟩) ∧
    dec [10, 0x1C, 0, 0, 0, 1, 0x99, 1, 0, 0, 0] = some (.subSlotGet [0x99] ⟨true, false, 0⟩) ∧
    dec [10, 0x22, 0, 0, 0, 1, 0x99, 1, 0, 0, 0] = some (.subSysStatus [0x99] ⟨true, false, 0⟩) ∧
    dec [10, 0x28, 0, 0, 0, 1, 0x99, 1, 0, 0, 0] = some (.subScreenCapInit [0x99] ⟨true, false, 0⟩) ∧
    dec [10, 0x00, 0, 0, 0, 0, 0, 0, 0, 0] = some (.subOther 0x00 [] noChecks) := by
  decide +kernel

theorem test_decode_acknowledgments :
    dec [9, 0x76] = some (.ack) ∧
    dec [9, 0xFF] = some (.nackGeneral) ∧
    dec [9, 0xCE] = some (.nackCrcError) ∧
    dec [9, 0xD0] = some (.nackPayloadTooSmall) ∧
    dec [9, 0xD1] = some (.nackRequestTooLarge) ∧
    dec [9, 0xD2] = some (.nackProgramCrcError) ∧
    dec [9, 0xD3] = some (.nackProgramFileError) ∧
    dec [9, 0xD4] = some (.nackUninitializedTransfer) ∧
    dec [9, 0xD5] = some (.nackInvalidInitForFunction) ∧
    dec [9, 0xD6] = some (.nackDataNotMultipleOf4) ∧
    dec [9, 0xD7] = some (.nackAddressMismatch) ∧
    dec [9, 0xD8] = some (.nackLengthMismatch) ∧
    dec [9, 0xD9] = some (.nackDirectoryEntryMissing) ∧
    dec [9, 0xDA] = some (.nackMaxFilesReached) ∧
    dec [9, 0xDB] = some (.nackFileExists) ∧
    dec [9, 0xCF] = some (.nackOther 0xCF) ∧
    dec [9, 0xDC] = some (.nackOther 0xDC) := by
  decide +kernel

theorem test_decode_refuses : decode Params.default [0, 31] = .error .reservedSelector ∧
    decode Params.default [11] = .error (.noSpace 11) ∧ decode Params.default [2, 0xAA, 0xAA] = .error .badPattern ∧
    decode Params.default [0, 5, 0x21, 0, 0, 0, 1] = .error .truncated ∧ decode Params.default [0, 18, 2] = .error .badOperand ∧
    decode Params.default [7, 0x02, 0x00] = .error .illFormed := ⟨rfl, rfl, rfl, rfl, rfl, rfl⟩

/-- The selector's bits above bit 4 are not part of the table's pattern. -/
theorem test_decode_selector_mask : dec [0, 0xE6] = some .spRx := by decide +kernel

/-! The printed tables of 40_crc R90 and R91. -/

theorem test_T16_000 : (T16.drop 0).take 64 =
    [0x0000, 0x1021, 0x2042, 0x3063, 0x4084, 0x50A5, 0x60C6, 0x70E7,
     0x8108, 0x9129, 0xA14A, 0xB16B, 0xC18C, 0xD1AD, 0xE1CE, 0xF1EF,
     0x1231, 0x0210, 0x3273, 0x2252, 0x52B5, 0x4294, 0x72F7, 0x62D6,
     0x9339, 0x8318, 0xB37B, 0xA35A, 0xD3BD, 0xC39C, 0xF3FF, 0xE3DE,
     0x2462, 0x3443, 0x0420, 0x1401, 0x64E6, 0x74C7, 0x44A4, 0x5485,
     0xA56A, 0xB54B, 0x8528, 0x9509, 0xE5EE, 0xF5CF, 0xC5AC, 0xD58D,
     0x3653, 0x2672, 0x1611, 0x0630, 0x76D7, 0x66F6, 0x5695, 0x46B4,
     0xB75B, 0xA77A, 0x9719, 0x8738, 0xF7DF, 0xE7FE, 0xD79D, 0xC7BC] := by
  decide +kernel

theorem test_T16_064 : (T16.drop 64).take 64 =
    [0x48C4, 0x58E5, 0x6886, 0x78A7, 0x0840, 0x1861, 0x2802, 0x3823,
     0xC9CC, 0xD9ED, 0xE98E, 0xF9AF, 0x8948, 0x9969, 0xA90A, 0xB92B,
     0x5AF5, 0x4AD4, 0x7AB7, 0x6A96, 0x1A71, 0x0A50, 0x3A33, 0x2A12,
     0xDBFD, 0xCBDC, 0xFBBF, 0xEB9E, 0x9B79, 0x8B58, 0xBB3B, 0xAB1A,
     0x6CA6, 0x7C87, 0x4CE4, 0x5CC5, 0x2C22, 0x3C03, 0x0C60, 0x1C41,
     0xEDAE, 0xFD8F, 0xCDEC, 0xDDCD, 0xAD2A, 0xBD0B, 0x8D68, 0x9D49,
     0x7E97, 0x6EB6, 0x5ED5, 0x4EF4, 0x3E13, 0x2E32, 0x1E51, 0x0E70,
     0xFF9F, 0xEFBE, 0xDFDD, 0xCFFC, 0xBF1B, 0xAF3A, 0x9F59, 0x8F78] := by
  decide +kernel

theorem test_T16_128 : (T16.drop 128).take 64 =
    [0x9188, 0x81A9, 0xB1CA, 0xA1EB, 0xD10C, 0xC12D, 0xF14E, 0xE16F,
     0x1080, 0x00A1, 0x30C2, 0x20E3, 0x5004, 0x4025, 0x7046, 0x6067,
     0x83B9, 0x9398, 0xA3FB, 0xB3DA, 0xC33D, 0xD31C, 0xE37F, 0xF35E,
     0x02B1, 0x1290, 0x22F3, 0x32D2, 0x4235, 0x5214, 0x6277, 0x7256,
     0xB5EA, 0xA5CB, 0x95A8, 0x8589, 0xF56E, 0xE54F, 0xD52C, 0xC50D,
     0x34E2, 0x24C3, 0x14A0, 0x0481, 0x7466, 0x6447, 0x5424, 0x4405,
     0xA7DB, 0xB7FA, 0x8799, 0x97B8, 0xE75F, 0xF77E, 0xC71D, 0xD73C,
     0x26D3, 0x36F2, 0x0691, 0x16B0, 0x6657, 0x7676, 0x4615, 0x5634] := by
  decide +kernel

theorem test_T16_192 : (T16.drop 192).take 64 =
    [0xD94C, 0xC96D, 0xF90E, 0xE92F, 0x99C8, 0x89E9, 0xB98A, 0xA9AB,
     0x5844, 0x4865, 0x7806, 0x6827, 0x18C0, 0x08E1, 0x3882, 0x28A3,
     0xCB7D, 0xDB5C, 0xEB3F, 0xFB1E, 0x8BF9, 0x9BD8, 0xABBB, 0xBB9A,
     0x4A75, 0x5A54, 0x6A37, 0x7A16, 0x0AF1, 0x1AD0, 0x2AB3, 0x3A92,
     0xFD2E, 0xED0F, 0xDD6C, 0xCD4D, 0xBDAA, 0xAD8B, 0x9DE8, 0x8DC9,
     0x7C26, 0x6C07, 0x5C64, 0x4C45, 0x3CA2, 0x2C83, 0x1CE0, 0x0CC1,
     0xEF1F, 0xFF3E, 0xCF5D, 0xDF7C, 0xAF9B, 0xBFBA, 0x8FD9, 0x9FF8,
     0x6E17, 0x7E36, 0x4E55, 0x5E74, 0x2E93, 0x3EB2, 0x0ED1, 0x1EF0] := by
  decide +kernel

theorem test_T32_000 : (T32.drop 0).take 64 =
    [0x00000000, 0x04C11DB7, 0x09823B6E, 0x0D4326D9, 0x130476DC, 0x17C56B6B, 0x1A864DB2, 0x1E475005,
     0x2608EDB8, 0x22C9F00F, 0x2F8AD6D6, 0x2B4BCB61, 0x350C9B64, 0x31CD86D3, 0x3C8EA00A, 0x384FBDBD,
     0x4C11DB70, 0x48D0C6C7, 0x4593E01E, 0x4152FDA9, 0x5F15ADAC, 0x5BD4B01B, 0x569796C2, 0x52568B75,
     0x6A1936C8, 0x6ED82B7F, 0x639B0DA6, 0x675A1011, 0x791D4014, 0x7DDC5DA3, 0x709F7B7A, 0x745E66CD,
     0x9823B6E0, 0x9CE2AB57, 0x91A18D8E, 0x95609039, 0x8B27C03C, 0x8FE6DD8B, 0x82A5FB52, 0x8664E6E5,
     0xBE2B5B58, 0xBAEA46EF, 0xB7A96036, 0xB3687D81, 0xAD2F2D84, 0xA9EE3033, 0xA4AD16EA, 0xA06C0B5D,
     0xD4326D90, 0xD0F37027, 0xDDB056FE, 0xD9714B49, 0xC7361B4C, 0xC3F706FB, 0xCEB42022, 0xCA753D95,
     0xF23A8028, 0xF6FB9D9F, 0xFBB8BB46, 0xFF79A6F1, 0xE13EF6F4, 0xE5FFEB43, 0xE8BCCD9A, 0xEC7DD02D] := by
  decide +kernel

theorem test_T32_064 : (T32.drop 64).take 64 =
    [0x34867077, 0x30476DC0, 0x3D044B19, 0x39C556AE, 0x278206AB, 0x23431B1C, 0x2E003DC5, 0x2AC12072,
     0x128E9DCF, 0x164F8078, 0x1B0CA6A1, 0x1FCDBB16, 0x018AEB13, 0x054BF6A4, 0x0808D07D, 0x0CC9CDCA,
     0x7897AB07, 0x7C56B6B0, 0x71159069, 0x75D48DDE, 0x6B93DDDB, 0x6F52C06C, 0x6211E6B5, 0x66D0FB02,
     0x5E9F46BF, 0x5A5E5B08, 0x571D7DD1, 0x53DC6066, 0x4D9B3063, 0x495A2DD4, 0x44190B0D, 0x40D816BA,
     0xACA5C697, 0xA864DB20, 0xA527FDF9, 0xA1E6E04E, 0xBFA1B04B, 0xBB60ADFC, 0xB6238B25, 0xB2E29692,
     0x8AAD2B2F, 0x8E6C3698, 0x832F1041, 0x87EE0DF6, 0x99A95DF3, 0x9D684044, 0x902B669D, 0x94EA7B2A,
     0xE0B41DE7, 0xE4750050, 0xE9362689, 0xEDF73B3E, 0xF3B06B3B, 0xF771768C, 0xFA325055, 0xFEF34DE2,
     0xC6BCF05F, 0xC27DEDE8, 0xCF3ECB31, 0xCBFFD686, 0xD5B88683, 0xD1799B34, 0xDC3ABDED, 0xD8FBA05A] := by
  decide +kernel

theorem test_T32_128 : (T32.drop 128).take 64 =
    [0x690CE0EE, 0x6DCDFD59, 0x608EDB80, 0x644FC637, 0x7A089632, 0x7EC98B85, 0x738AAD5C, 0x774BB0EB,
     0x4F040D56, 0x4BC510E1, 0x46863638, 0x42472B8F, 0x5C007B8A, 0x58C1663D, 0x558240E4, 0x51435D53,
     0x251D3B9E, 0x21DC2629, 0x2C9F00F0, 0x285E1D47, 0x36194D42, 0x32D850F5, 0x3F9B762C, 0x3B5A6B9B,
     0x0315D626, 0x07D4CB91, 0x0A97ED48, 0x0E56F0FF, 0x1011A0FA, 0x14D0BD4D, 0x19939B94, 0x1D528623,
     0xF12F560E, 0xF5EE4BB9, 0xF8AD6D60, 0xFC6C70D7, 0xE22B20D2, 0xE6EA3D65, 0xEBA91BBC, 0xEF68060B,
     0xD727BBB6, 0xD3E6A601, 0xDEA580D8, 0xDA649D6F, 0xC423CD6A, 0xC0E2D0DD, 0xCDA1F604, 0xC960EBB3,
     0xBD3E8D7E, 0xB9FF90C9, 0xB4BCB610, 0xB07DABA7, 0xAE3AFBA2, 0xAAFBE615, 0xA7B8C0CC, 0xA379DD7B,
     0x9B3660C6, 0x9FF77D71, 0x92B45BA8, 0x9675461F, 0x8832161A, 0x8CF30BAD, 0x81B02D74, 0x857130C3] := by
  decide +kernel

theorem test_T32_192 : (T32.drop 192).take 64 =
    [0x5D8A9099, 0x594B8D2E, 0x5408ABF7, 0x50C9B640, 0x4E8EE645, 0x4A4FFBF2, 0x470CDD2B, 0x43CDC09C,
     0x7B827D21, 0x7F436096, 0x7200464F, 0x76C15BF8, 0x68860BFD, 0x6C47164A, 0x61043093, 0x65C52D24,
     0x119B4BE9, 0x155A565E, 0x18197087, 0x1CD86D30, 0x029F3D35, 0x065E2082, 0x0B1D065B, 0x0FDC1BEC,
     0x3793A651, 0x3352BBE6, 0x3E119D3F, 0x3AD08088, 0x2497D08D, 0x2056CD3A, 0x2D15EBE3, 0x29D4F654,
     0xC5A92679, 0xC1683BCE, 0xCC2B1D17, 0xC8EA00A0, 0xD6AD50A5, 0xD26C4D12, 0xDF2F6BCB, 0xDBEE767C,
     0xE3A1CBC1, 0xE760D676, 0xEA23F0AF, 0xEEE2ED18, 0xF0A5BD1D, 0xF464A0AA, 0xF9278673, 0xFDE69BC4,
     0x89B8FD09, 0x8D79E0BE, 0x803AC667, 0x84FBDBD0, 0x9ABC8BD5, 0x9E7D9662, 0x933EB0BB, 0x97FFAD0C,
     0xAFB010B1, 0xAB710D06, 0xA6322BDF, 0xA2F33668, 0xBCB4666D, 0xB8757BDA, 0xB5365D03, 0xB1F740B4] := by
  decide +kernel

/-! Steps, with the vectors of spec/95_test_vectors.md. -/

/-- `CRC.BUILD(8, 0x07)`: entry 1 is 07, entry 255 is F3 (2.1). -/
theorem test_crc_build : ((nextOf (exec (.crcBuild 8 0x07) base)).bind fun t => t.reports.head?.map fun r =>
    match r.res with
    | .ok (.table 8 T) => [T.length, T.getD 0 9, T.getD 1 0, T.getD 255 0]
    | _ => []) = some [256, 0, 0x07, 0xF3] := by decide +kernel

/-- K18. -/
theorem test_crc_build_refuses : res (exec (.crcBuild 7 1) base) = some (.error (.invalidWidth 7)) := by decide +kernel

/-- The step trace of 2.1: from 2672 with byte 32 to 20B5. -/
theorem test_crc_upd : res (exec (.crcUpd 16 ⟨16, 0x1021⟩ 0x2672 0x32) base) = some (.ok (.checksum 16 0x20B5)) := by decide +kernel

/-- K17. -/
theorem test_crc_compute : res (exec (.crcCompute 8 ⟨8, 0x07⟩ digits 0) base) = some (.ok (.checksum 8 0xF4)) := by decide +kernel

/-- K9 and P6: the working register holds the last result. -/
theorem test_crc16 : (nextOf (exec (.crc16Compute digits 0) base)).map (fun t => (t.acc16, t.reports)) =
    some (0x31C3, [⟨.owner, .ok (.checksum 16 0x31C3)⟩]) := by decide +kernel

/-- K11 and K15. -/
theorem test_crc16_corners : crc16 digits 0xFFFF = 0x29B1 ∧ crc16 (digits ++ [0xC3, 0x31]) 0 = 0xBAFE := by decide +kernel

/-- K9. -/
theorem test_crc32 : res (exec (.crc32Compute digits 0) base) = some (.ok (.checksum 32 0x89A1897F)) := by decide +kernel

/-- K11 and K16. -/
theorem test_crc32_corners : crc32 digits 0xFFFFFFFF = 0x0376E6E7 ∧ crc32 (digits ++ [0x89, 0xA1, 0x89, 0x7F]) 0 = 0 := by decide +kernel

/-- T3. -/
theorem test_sp_tx : res (exec (.spTx 0x10 [0x01, 0x02]) base) =
    some (.ok (.bytes [0xC9, 0x36, 0xB8, 0x47, 0x10, 0x01, 0x02])) := by decide +kernel

/-- T5: resync through false starts, and `EE` is left. -/
theorem test_sp_rx_resync : (nextOf (exec .spRx (heard (byteEvents [0x00, 0x13, 0xAA, 0x13, 0xAA, 0xAA, 0x55, 0x01, 0x55,
    0xAA, 0x55, 0x56, 0x05, 0x19, 0x01, 0xD9, 0xD5, 0xB1, 0xEE]) base))).map (fun t => (t.chan.rx, t.reports)) =
    some ([.chan (.byte 0xEE)], [⟨.owner, .ok (.packet ⟨0x56, [0x19, 0x01, 0xD9, 0xD5, 0xB1],
      [0xAA, 0x55, 0x56, 0x05, 0x19, 0x01, 0xD9, 0xD5, 0xB1], 4⟩)⟩]) := by decide +kernel

/-- T6: the second `AA` is not looked at again. -/
theorem test_sp_rx_no_carry_over : (nextOf (exec .spRx (heard (byteEvents [0xAA, 0xAA, 0x55, 0x21, 0x00]) base))).map
    (fun t => (t.sp.st, t.task, t.chan.rx, t.reports)) = some (.hunt0, some [], [], []) := by decide +kernel

/-- T15, from the state `CMD`. -/
theorem test_sp_step_timeout : (nextOf (exec (.spStep .timeout) { hunting [] base with
    sp := ⟨.cmd, 0, 0, 0, 0, [0xAA, 0x55]⟩ })).map (fun t => (t.sp.st, t.sp.raw, t.reports.head?)) =
    some (.idle, [], some ⟨.owner, .error (.transport .shortRead)⟩) := by decide +kernel

/-- T10: a length field of two bytes that announces nothing. -/
theorem test_sp_step_len1 : (nextOf (exec (.spStep (.byte 0x00)) { hunting [] base with
    sp := ⟨.len1, 0x56, 0, 0, 0, [0xAA, 0x55, 0x56, 0x80]⟩ })).map (fun t => (t.sp.st, t.sp.hlen, t.task, t.reports.getLast?)) =
    some (.idle, 5, none, some ⟨.owner, .ok (.packet ⟨0x56, [], [0xAA, 0x55, 0x56, 0x80, 0x00], 5⟩)⟩) := by decide +kernel

/-- E4 and E9. -/
theorem test_ext_lenenc : res (exec (.extLenEnc 128) base) = some (.ok (.bytes [0x80, 0x80])) ∧
    res (exec (.extLenEnc 32768) base) = some (.error (.lengthOverflow 32768)) := by decide +kernel

/-- E12 and E14. -/
theorem test_ext_lendec : res (exec (.extLenDec [0x80, 0x05]) base) = some (.ok (.length 5 2)) ∧
    res (exec (.extLenDec [0x80]) base) = some (.error .unexpectedLength) := by decide +kernel

/-- X3. -/
theorem test_ext_tx : res (exec (.extTx 0x18 [0x01, 0x02, 0x03]) base) =
    some (.ok (.bytes [0xC9, 0x36, 0xB8, 0x47, 0x56, 0x18, 0x03, 0x01, 0x02, 0x03, 0x7D, 0x6A])) := by decide +kernel

/-- X7: the length field and the trailer at the boundary of 128 bytes. -/
theorem test_ext_tx_boundary : (match extTx 0x13 ((List.range 128).map fun i => BitVec.ofNat 8 (7 * i + 3)) with
    | .ok w => (w.length, (w.drop 6).take 2, w.drop 136)
    | .error _ => (0, [], [])) = (138, [0x80, 0x80], [0x2B, 0xDA]) := by decide +kernel

/-- Z1. -/
theorem test_ext_decode : res (exec (.extDecode ⟨0x56, [0x22, 0x05, 0x76, 0x01, 0x02, 0x03, 0x04, 0x9A, 0xA3],
    [0xAA, 0x55, 0x56, 0x09, 0x22, 0x05, 0x76, 0x01, 0x02, 0x03, 0x04, 0x9A, 0xA3], 4⟩ 0x22 ⟨true, true, 4⟩) base) =
    some (.ok (.bytes [0x01, 0x02, 0x03, 0x04])) := by decide +kernel

/-- Z12: the inner length does not account for the body. -/
theorem test_ext_decode_length : res (exec (.extDecode ⟨0x56, [0x19, 0x02, 0xD9, 0x80, 0xE2],
    [0xAA, 0x55, 0x56, 0x05, 0x19, 0x02, 0xD9, 0x80, 0xE2], 4⟩ 0x19 ⟨true, false, 0⟩) base) =
    some (.error .unexpectedLength) := by decide +kernel

/-- Z2. -/
theorem test_ext_rx : res (exec (.extRx 0x19 ⟨true, false, 0⟩)
    (heard (byteEvents [0x00, 0x13, 0xAA, 0x55, 0x56, 0x05, 0x19, 0x01, 0xD9, 0xD5, 0xB1]) base)) =
    some (.error (.deviceRejected .directoryEntryMissing)) := by decide +kernel

/-- Z16: the layout without the inner length field. -/
theorem test_ext_rx_no_inner : res (exec (.extRx 0x22 ⟨true, true, 4⟩)
    (heard (byteEvents [0xAA, 0x55, 0x56, 0x08, 0x22, 0x76, 0x01, 0x02, 0x03, 0x04, 0x89, 0x59])
      { base with params := { base.params with innerLen := false } })) = some (.ok (.bytes [0x01, 0x02, 0x03, 0x04])) := by
  decide +kernel

/-- A1, A13, A16. -/
theorem test_ack_decode : res (exec (.ackDecode 0x76) base) = some (.ok .ack) ∧
    res (exec (.ackDecode 0xD9) base) = some (.error (.deviceRejected .directoryEntryMissing)) ∧
    res (exec (.ackDecode 0xCF) base) = some (.error (.unexpectedAck (some 0xCF))) := by decide +kernel

/-- B24, B27, B29. -/
theorem test_cobs_decode : res (exec (.cobsDecode [0x03, 0x11, 0x22, 0x02, 0x33]) base) = some (.ok (.bytes [0x11, 0x22, 0x00, 0x33])) ∧
    res (exec (.cobsDecode [0x05, 0x11, 0x22]) base) = some (.ok .malformed) ∧
    res (exec (.cobsDecode [0x01, 0x03, 0x41]) base) = some (.ok .malformed) := by decide +kernel

/-- B6 and B11. -/
theorem test_cobs_encode : res (exec (.cobsEncode [0x11, 0x00, 0x00, 0x00]) base) = some (.ok (.bytes [0x02, 0x11, 0x01, 0x01, 0x01])) ∧
    res (exec (.cobsEncode [0x73, 0x6F, 0x75, 0x74, 0x00, 0x41, 0x00]) base) =
      some (.ok (.bytes [0x05, 0x73, 0x6F, 0x75, 0x74, 0x02, 0x41, 0x01])) := by decide +kernel

/-- B12 to B14: blocks of 254 bytes. -/
theorem test_cobs_encode_full_block :
    cobsEncode (List.replicate 254 7) = 0xFF :: List.replicate 254 7 ∧
    cobsEncode (List.replicate 255 7) = 0xFF :: List.replicate 254 7 ++ [0x02, 7] ∧
    cobsEncode (List.replicate 254 7 ++ [0]) = 0xFF :: List.replicate 254 7 ++ [0x01, 0x01] := by decide +kernel

/-- M1 and the first call of M2. -/
theorem test_mux_sub : res (exec (.muxSub [0x73, 0x6F, 0x75]) base) = some (.error (.invalidTopic [0x73, 0x6F, 0x75])) ∧
    (nextOf (exec (.muxSub [0x73, 0x6F, 0x75, 0x74]) base)).map (fun t => t.mux.subs) = some [sout] := by decide +kernel

/-- 43_mux_stream R166's example. -/
theorem test_mux_unsub : (nextOf (exec (.muxUnsub [0x73, 0x65, 0x72, 0x72])
    (base.setSubs (insertTopic sout [serr])))).map (fun t => t.mux.subs) = some [sout] := by decide +kernel

/-- 43_mux_stream R167. -/
theorem test_mux_promisc : (nextOf (exec (.muxPromisc true) base)).map (fun t => t.mux.promisc) = some true := by decide +kernel

/-- P3: two reads of the three frames. -/
theorem test_mux_read : (readTimes 2 (heard (byteEvents [0x07, 0x73, 0x65, 0x72, 0x72, 0x45, 0x31, 0x00, 0x08, 0x73, 0x6F, 0x75,
    0x74, 0x48, 0x69, 0x0A, 0x00, 0x05, 0x73, 0x6F, 0x75, 0x74, 0x03, 0x6F, 0x6B, 0x00]) (base.setSubs [sout]))).map
    (fun t => (t.chan.rx, t.mux.buf, t.reports)) = some ([], [], [⟨.reader, .ok (.frame sout [0x48, 0x69, 0x0A])⟩,
      ⟨.reader, .ok (.frame sout [0x00, 0x6F, 0x6B])⟩]) := by decide +kernel

/-- M6. -/
theorem test_mux_read_cancelled : (nextOf (exec .muxRead (heard (byteEvents [0x05, 0x73, 0x6F] ++ [.cancel])
    (base.setSubs [sout])))).map (fun t => (t.mux.buf, t.mux.cancel, t.reports)) =
    some ([0x05, 0x73, 0x6F], true, [⟨.reader, .error .cancelled⟩]) := by decide +kernel

/-- M11. -/
theorem test_mux_write : sent (exec (.muxWrite [0x6C, 0x73, 0x0A]) base) = some [0x6C, 0x73, 0x0A] := by decide +kernel

/-- 43_mux_stream R174. -/
theorem test_mux_cancel : (nextOf (exec .muxCancel { base with reading := true })).map
    (fun t => (t.mux.cancel, t.reading, t.reports)) = some (true, false, [⟨.reader, .error .cancelled⟩]) := by decide +kernel

/-- P1: the exchange through line noise. -/
theorem test_ext_xchg : (nextOf (exec (.extXchg 0x22 [] ⟨true, true, 4⟩) (heard (byteEvents [0x00, 0x13, 0xAA, 0x55, 0x56, 0x09,
    0x22, 0x05, 0x76, 0x01, 0x02, 0x03, 0x04, 0x9A, 0xA3, 0xEE]) base))).map (fun t => (t.chan, t.reports)) =
    some ({ Channel.reset with rx := [.chan (.byte 0xEE)], tx := [0xC9, 0x36, 0xB8, 0x47, 0x56, 0x22, 0x00, 0x60, 0xFC] },
      [⟨.owner, .ok (.bytes [0x01, 0x02, 0x03, 0x04])⟩]) := by decide +kernel

/-- Acknowledgment replies of 2.5, by sub-command. -/
def ackInit : Bytes := [0xAA, 0x55, 0x56, 0x05, 0x11, 0x01, 0x76, 0x38, 0x15]
def ackComplete : Bytes := [0xAA, 0x55, 0x56, 0x05, 0x12, 0x01, 0x76, 0x61, 0x45]
def ackWrite : Bytes := [0xAA, 0x55, 0x56, 0x05, 0x13, 0x01, 0x76, 0x56, 0x75]

/-- The reply to an initialize request that allots `size` bytes. -/
def initReply (size : Byte) : Bytes := replyOf base.params 0x11 [0x76, 0x04, size, 0x00]

/-- 44_host_protocols R188. -/
theorem test_ft_init : (nextOf (exec (.ftInit initArgs) (heard (byteEvents (initReply 8)) base))).map
    (fun t => (t.ft, t.reports)) = some (some ⟨4, 8, 0, 0x100, 5, 7⟩, [⟨.owner, .ok (.session 4 8 0)⟩]) := by decide +kernel

/-- 44_host_protocols R194: less is allotted than was asked for. -/
theorem test_ft_init_too_small : (nextOf (exec (.ftInit initArgs) (heard (byteEvents (initReply 4)) base))).map
    (fun t => (t.ft, t.reports)) = some (none, [⟨.owner, .error .unexpectedLength⟩]) := by decide +kernel

/-- H6: one byte goes out padded to four. -/
theorem test_ft_write : (nextOf (exec (.ftWrite 0x102 [0x09]) (heard (byteEvents ackWrite) base))).map
    (fun t => ((t.chan.tx.drop 5).take 8, t.reports)) =
    some ([0x13, 0x06, 0x02, 0x01, 0x09, 0x00, 0x00, 0x00], [⟨.owner, .ok .unit⟩]) := by decide +kernel

/-- H13: ten bytes are asked for as twelve. -/
theorem test_ft_read : (nextOf (exec (.ftRead 0x100 10 ⟨true, false, 0⟩) (heard (byteEvents (replyOf base.params 0x14
    [0x76, 0, 1, 2, 3, 4, 5, 6, 7, 8, 9, 10, 11])) base))).map (fun t => ((t.chan.tx.drop 5).take 6, t.reports)) =
    some ([0x14, 0x04, 0x00, 0x01, 0x0C, 0x00], [⟨.owner, .ok (.bytes [0, 1, 2, 3, 4, 5, 6, 7, 8, 9])⟩]) := by decide +kernel

/-- 44_host_protocols R191. -/
theorem test_ft_complete : (nextOf (exec (.ftComplete .runNow) (heard (byteEvents ackComplete)
    { base with ft := some ⟨4, 8, 0, 0, 5, 7⟩ }))).map (fun t => (t.ft, t.reports)) =
    some (none, [⟨.owner, .ok .unit⟩]) := by decide +kernel

/-- P5 in small: two chunks, the second of one byte. -/
theorem test_ft_upload : (nextOf (exec (.ftUpload upArgs) (heard (byteEvents (initReply 5 ++ ackWrite ++ ackWrite ++ ackComplete))
    base))).map (fun t => (t.ft, t.task, t.chan.rx, t.reports)) = some (none, none, [], [⟨.owner, .ok .unit⟩]) := by decide +kernel

/-- P5: the session ends at the first chunk that is rejected. -/
theorem test_ft_upload_rejected : (nextOf (exec (.ftUpload upArgs) (heard (byteEvents (initReply 5 ++ replyOf base.params 0x13 [0xD7] ++
    ackWrite)) base))).map (fun t => (t.ft, t.chan.rx.length, t.reports)) =
    some (none, 9, [⟨.owner, .error (.deviceRejected .addressMismatch)⟩]) := by decide +kernel

/-- 44_host_protocols R204: two chunks joined. -/
theorem test_ft_download : (nextOf (exec (.ftDownload downArgs) (heard (byteEvents (initReply 5 ++
    replyOf base.params 0x14 [0x76, 1, 2, 3, 4] ++ replyOf base.params 0x14 [0x76, 5, 6, 7, 8] ++ ackComplete)) base))).map
    (fun t => (t.ft, t.reports)) = some (none, [⟨.owner, .ok (.bytes [1, 2, 3, 4, 5])⟩]) := by decide +kernel

/-- P4: a time-out, a corrupted reply, a good one; and H11. -/
theorem test_retry : (nextOf (exec (.retry (.xchg 0x22 [] ⟨true, true, 4⟩) (tries 3)) (heard (byteEvents [0x11] ++ [.chan .timeout] ++
    byteEvents [0xAA, 0x55, 0x56, 0x09, 0x22, 0x05, 0x76, 0x11, 0x02, 0x03, 0x04, 0x9A, 0xA3, 0xAA, 0x55, 0x56, 0x09, 0x22,
      0x05, 0x76, 0x01, 0x02, 0x03, 0x04, 0x9A, 0xA3]) base))).map (fun t => (t.chan.tx.length, t.attempt, t.reports)) =
    some (27, 3, [⟨.owner, .ok (.bytes [0x01, 0x02, 0x03, 0x04])⟩]) ∧
    (nextOf (exec (.retry (.xchg 0x22 [] noChecks) (tries 3)) (heard [.chan .fail, .chan .timeout] base))).map
    (fun t => (t.chan.tx.length, t.reports)) = some (9, [⟨.owner, .error (.transport .channelFailure)⟩]) := by decide +kernel

/-- The legacy device, with these answers to come. -/
def bootState (st : LegacyState) (last : Option Nat) (answers : List BootAnswer) : State :=
  { base with device := .legacy, legacy := ⟨st, last, [], answers, 0⟩ }

/-- 44_host_protocols R200, R201: a handshake that succeeds on its third try, and a jump that is not acknowledged; 60_exceptions
R242: one whose write fails. 44_host_protocols R198: the status is asked for once. -/
theorem test_retry_of_device_operations :
    (nextOf (exec (.retry (.boot .handshake) (tries 1))
      (bootState .unknown none [.silent, .failed .frameSyncTimeout, .done]))).map
      (fun t => (t.legacy.st, t.legacy.sent.length, t.reports)) = some (.negotiated, 3, [⟨.owner, .ok .unit⟩]) ∧
    (nextOf (exec (.retry (.boot (.jump 0x100)) (tries 1)) (bootState .programming (some 0) [.silent]))).map
      (fun t => (t.legacy.st, t.legacy.sent, t.reports)) = some (.jumped, [.jump 0x100], [⟨.owner, .ok .unit⟩]) ∧
    (nextOf (exec (.retry (.boot (.jump 0x100)) (tries 3))
      (bootState .programming (some 0) [.failed (.transport .channelFailure)]))).map (fun t => (t.legacy.st, t.reports)) =
        some (.programming, [⟨.owner, .error (.transport .channelFailure)⟩]) ∧
    (nextOf (exec (.retry (.status [] ⟨true, true, 4⟩) (tries 1)) (heard (byteEvents [0xAA, 0x55, 0x56, 0x09, 0x22, 0x05, 0x76,
      0x01, 0x02, 0x03, 0x04, 0x9A, 0xA3]) base))).map (fun t => (t.chan.tx.length, t.snapshot)) = some (9, some [1, 2, 3, 4]) ∧
    (nextOf (exec (.retry (.status [] noChecks) (tries 1)) { base with snapshot := some [1, 2, 3, 4] })).map
      (fun t => (t.chan.tx, t.reports)) = some ([], [⟨.owner, .ok (.bytes [1, 2, 3, 4])⟩]) := by decide +kernel

/-- 44_host_protocols R200 states no result of a jump before the handshake, or of a write at the last address; they complete. -/
theorem test_boot_out_of_order : (∃ t, exec (.retry (.boot (.jump 0)) (tries 1)) (bootState .unknown none []) = .next t) ∧
    ∃ t, exec (.retry (.boot (.programWrite 8 [7])) (tries 1)) (bootState .programming (some 8) [.done]) = .next t :=
  ⟨⟨_, rfl⟩, ⟨_, rfl⟩⟩

/-- 70_reset_and_hazards R261: a receive in progress is abandoned, the channel and the session are kept. -/
theorem test_reset : (nextOf (step { hunting [] (heard [] base) with
      resetAsked := true, mux := ⟨[1], [sout], true, true⟩, ft := some ⟨4, 8, 0, 0, 5, 7⟩ })).map
    (fun t => (t.sp.st, t.task, t.mux, t.ft.isSome, t.reports)) = some (.idle, none, ⟨[], [], false, false⟩, true, []) := by
  decide +kernel

/-- An exchange enters `Querying` (44_host_protocols R198), a reset in its midst keeps it there (70_reset_and_hazards R261), and
the end of a later exchange leaves it. -/
theorem test_reset_keeps_querying :
    let sentOff := nextOf (exec (.extXchg 0x22 [] noChecks) base)
    let wiped := sentOff.bind fun t => nextOf (step { t with resetAsked := true })
    sentOff.map State.primary = some .querying ∧ wiped.map (fun t => (t.primary, t.waiting)) = some (.querying, false) ∧
    (wiped.bind fun t => nextOf (exec (.extXchg 0x22 [] noChecks) (heard [.chan .timeout] t))).map State.primary = some .idle := by
  decide +kernel

/-- H10 and H12. -/
theorem test_classify : res (exec (.classify (.deviceRejected .fileExists)) base) = some (.ok (.retried false)) ∧
    res (exec (.classify (.deviceRejected .crcError)) base) = some (.ok (.retried true)) := by decide +kernel

/-- T1. -/
theorem test_f_sptx_header : sent (exec (.fSptxHeader 0x21 []) base) = some [0xC9, 0x36, 0xB8, 0x47, 0x21] := by decide +kernel

/-- T8: the top bit of the length is data when the command is not the reserved one. -/
theorem test_f_sprx_short : (nextOf (exec (.fSprxShort 0x21 (List.replicate 129 7)) (hunting [] base))).map
    (fun t => (t.sp.st, t.sp.len, t.sp.hlen, t.reports.length)) = some (.idle, 129, 4, 1) := by decide +kernel

/-- T9. -/
theorem test_f_sprx_long : res (exec (.fSprxLong [0x01, 0x02, 0x03]) (hunting [] base)) = some (.ok (.packet ⟨0x56,
    [0x01, 0x02, 0x03], [0xAA, 0x55, 0x56, 0x80, 0x03, 0x01, 0x02, 0x03], 5⟩)) := by decide +kernel

/-- E3. -/
theorem test_f_len_short : res (exec (.fLenShort 127) base) = some (.ok (.length 127 1)) := by decide +kernel

/-- E13. -/
theorem test_f_len_long : res (exec (.fLenLong 32767) base) = some (.ok (.length 32767 2)) := by decide +kernel

/-- X1. -/
theorem test_f_ext_tx : sent (exec (.fExtTx 0x22 []) base) =
    some [0xC9, 0x36, 0xB8, 0x47, 0x56, 0x22, 0x00, 0x60, 0xFC] := by decide +kernel

/-- Y4. -/
theorem test_f_ext_rx : (nextOf (exec (.fExtRx 0x16 [0x76, 0x05, 0x00]) base)).map (fun t => t.chan.rx) =
    some (byteEvents [0xAA, 0x55, 0x56, 0x07, 0x16, 0x03, 0x76, 0x05, 0x00, 0x30, 0xA1]) := by decide +kernel

/-- M9: the delimiter ends the frame that the buffer holds. -/
theorem test_f_mux_delim : res (exec .fMuxDelim { base with
    reading := true, mux := ⟨[0x05, 0x73, 0x6F, 0x75, 0x74], [sout], false, false⟩ }) = some (.ok (.frame sout [])) := by decide +kernel

/-- M10's second frame. -/
theorem test_f_mux_frame : res (exec (.fMuxFrame sout [0x48, 0x69, 0x0A]) { base with
    reading := true, mux := ⟨[], [], true, false⟩ }) = some (.ok (.frame sout [0x48, 0x69, 0x0A])) := by decide +kernel

/-- B25. -/
theorem test_f_cobs_block : (nextOf (exec (.fCobsBlock [0x41]) base)).map (fun t => t.chan.rx) =
    some (byteEvents [0x02, 0x41]) := by decide +kernel

/-- 41_simple_packet R106: the framer latches the reserved command. -/
theorem test_cmd_ext : (nextOf (exec .cmdExt { hunting [] base with sp := ⟨.cmd, 0, 0, 0, 0, [0xAA, 0x55]⟩ })).map
    (fun t => (t.sp.st, t.sp.cmd, t.sp.raw)) = some (.len0, 0x56, [0xAA, 0x55, 0x56]) := by decide +kernel

/-- A1 to A17, by rows. -/
theorem test_ack_rows : res (exec .ack base) = some (.ok .ack) ∧
    ([.nackGeneral, .nackCrcError, .nackPayloadTooSmall, .nackRequestTooLarge, .nackProgramCrcError, .nackProgramFileError,
      .nackUninitializedTransfer, .nackInvalidInitForFunction, .nackDataNotMultipleOf4, .nackAddressMismatch,
      .nackLengthMismatch, .nackDirectoryEntryMissing, .nackMaxFilesReached, .nackFileExists] : List Instr).map
        (fun i => res (exec i base)) = NackCode.all.map (fun c => some (.error (.deviceRejected c))) ∧
    res (exec (.nackOther 0x77) base) = some (.error (.unexpectedAck (some 0x77))) := by decide +kernel

/-- X13: the trailers of the fifteen sub-commands with an empty payload. -/
theorem test_sub_rows : ([.subFtInit [] noChecks, .subFtComplete [] noChecks, .subFtWrite [] noChecks, .subFtRead [] noChecks,
      .subFtSetLink [] noChecks, .subDirCount [] noChecks, .subDirEntry [] noChecks, .subExecFile [] noChecks,
      .subFileMetaGet [] noChecks, .subFileMetaSet [] noChecks, .subFileErase [] noChecks, .subSlotGet [] noChecks,
      .subSysStatus [] noChecks, .subScreenCapInit [] noChecks, .subOther 0x00 [] noChecks, .subOther 0xFF [] noChecks]
        : List Instr).map (fun i => (sent (exec i base)).map (fun w => w.drop 5)) =
    ([[0x11, 0, 0x30, 0x3A], [0x12, 0, 0x65, 0x69], [0x13, 0, 0x56, 0x58], [0x14, 0, 0xCF, 0xCF], [0x15, 0, 0xFC, 0xFE],
      [0x16, 0, 0xA9, 0xAD], [0x17, 0, 0x9A, 0x9C], [0x18, 0, 0x8A, 0xA2], [0x19, 0, 0xB9, 0x93], [0x1A, 0, 0xEC, 0xC0],
      [0x1B, 0, 0xDF, 0xF1], [0x1C, 0, 0x46, 0x66], [0x22, 0, 0x60, 0xFC], [0x28, 0, 0x8F, 0x37], [0x00, 0, 0x00, 0x78],
      [0xFF, 0, 0x03, 0x87]] : List Bytes).map some := by decide +kernel

/-- P2: the metadata request is rejected. -/
theorem test_sub_file_meta_get : res (exec (.subFileMetaGet [0x73, 0x6C, 0x6F, 0x74, 0x5F, 0x31, 0x2E, 0x62, 0x69, 0x6E] ⟨true, false, 0⟩)
    (heard (byteEvents [0xAA, 0x55, 0x56, 0x05, 0x19, 0x01, 0xD9, 0xD5, 0xB1]) base)) =
    some (.error (.deviceRejected .directoryEntryMissing)) := by decide +kernel

/-- 44_host_protocols R198: the status reply is kept. -/
theorem test_sub_sys_status : (nextOf (exec (.subSysStatus [] ⟨true, true, 4⟩) (heard (byteEvents [0xAA, 0x55, 0x56, 0x09, 0x22, 0x05,
    0x76, 0x01, 0x02, 0x03, 0x04, 0x9A, 0xA3]) base))).map (fun t => t.snapshot) =
    some (some [0x01, 0x02, 0x03, 0x04]) := by decide +kernel

/-- One step from reset runs the word that stands at the port. -/
theorem test_first_step : (nextOf (step (State.reset.withFetchWord 8 0x06))).map (fun t => (t.sp.st, t.task)) =
    some (.hunt0, some []) := by decide +kernel

/-- Words of four formats, as the opcode table numbers them. -/
theorem test_table_words : decodeTableWord 8 0x11 = some (.muxUnsub []) ∧ decodeTableWord 8 0x22 = some (.subSysStatus [] noChecks) ∧
    decodeTableWord 40 0xAA55568000 = some (.fSprxLong []) ∧ decodeTableWord 8 0xDB = some .nackFileExists := by decide +kernel


/-! Witnesses: a concrete state and operands that meet the hypotheses of each statement, clause by clause, at the boundary
values of their ranges. -/

/-- A state whose framer is in state `st`, in an `SP.RX`. -/
def inState (st : SpState) (f : Framer) : State := { base with sp := { f with st := st }, task := some [] }

/-- A reply that carries its data after the acknowledgment. -/
def ackChecks : Checks := ⟨true, true, 2⟩

theorem witness_CrcBuildGivesLinearTable : 8 ≤ 8 := by decide
theorem witness_CrcBuildRefusesNarrowWidth : 7 < 8 ∧ 0 < 8 := by decide

theorem witness_CrcUpd_and_CrcCompute :
    (8 ≤ 16 ∧ 8 ≤ (⟨16, 0x1021⟩ : TableRef).width ∧ (⟨16, 0x1021⟩ : TableRef).width = 16) ∧
    (8 ≤ 8 ∧ 8 ≤ (⟨8, 7⟩ : TableRef).width ∧ (⟨8, 7⟩ : TableRef).width = 8) ∧
    (8 ≤ 16 ∧ 8 ≤ (⟨8, 7⟩ : TableRef).width ∧ (⟨8, 7⟩ : TableRef).width ≠ 16) := by decide

theorem witness_CrcResidueIsZero : 1 ≤ 1 ∧ 1 ≤ 2 := by decide

theorem witness_ReceiveWaitsOrRaisesFramerErrors :
    (base.sp.st = .idle ∧ base.chan.rx = []) ∧
    ((heard [.chan .timeout] base).sp.st = .idle ∧ (heard [.chan .timeout] base).reading = false ∧
      (heard [.chan .timeout] base).chan.rx = .chan .timeout :: []) ∧
    ((heard [.chan .fail, .cancel] base).sp.st = .idle ∧ (heard [.chan .fail, .cancel] base).reading = false ∧
      (heard [.chan .fail, .cancel] base).chan.rx = .chan .fail :: [.cancel]) := by decide +kernel

/-- An empty payload and the longest one, in both forms of the length field. -/
theorem witness_SpRxReturnsThePacket :
    (let raw : Bytes := [0xAA, 0x55, 0x21, 0x00]
     (heard (byteEvents raw) base).sp.st = .idle ∧ (heard (byteEvents raw) base).reading = false ∧
      (heard (byteEvents raw) base).chan.rx = byteEvents raw ++ [] ∧ ([] : Bytes).length < (if (0x21 : Byte) = 0x56 then 128 else 256) ∧
      raw = [0xAA, 0x55, 0x21, BitVec.ofNat 8 ([] : Bytes).length] ++ []) ∧
    (let payload : Bytes := List.replicate 255 7
     let raw : Bytes := [0xAA, 0x55, 0x21, 0xFF] ++ payload
     (heard (byteEvents raw) base).chan.rx = byteEvents raw ++ [] ∧ payload.length < (if (0x21 : Byte) = 0x56 then 128 else 256) ∧
      raw = [0xAA, 0x55, 0x21, BitVec.ofNat 8 payload.length] ++ payload) ∧
    (let payload : Bytes := List.replicate 127 7
     let raw : Bytes := [0xAA, 0x55, 0x56, 0x7F] ++ payload
     (heard (byteEvents raw) base).chan.rx = byteEvents raw ++ [] ∧ payload.length < (if (0x56 : Byte) = 0x56 then 128 else 256) ∧
      raw = [0xAA, 0x55, 0x56, BitVec.ofNat 8 payload.length] ++ payload) ∧
    (let raw : Bytes := [0xAA, 0x55, 0x56, 0x80, 0x00]
     (heard (byteEvents raw) base).chan.rx = byteEvents raw ++ [] ∧ ([] : Bytes).length ≤ 32767 ∧
      raw = [0xAA, 0x55, 0x56, BitVec.ofNat 8 (128 + ([] : Bytes).length / 256), BitVec.ofNat 8 (([] : Bytes).length % 256)] ++ []) := by
  decide +kernel

/-- The longest payload of the reserved command. -/
theorem witness_SpRxReturnsThePacket_longest (payload : Bytes) (h : payload = List.replicate 32767 7) :
    payload.length ≤ 32767 ∧ ∃ s : State, s.sp.st = .idle ∧ s.reading = false ∧
      s.chan.rx = byteEvents ([0xAA, 0x55, 0x56, BitVec.ofNat 8 (128 + payload.length / 256),
        BitVec.ofNat 8 (payload.length % 256)] ++ payload) ++ [] := by
  subst h
  exact ⟨by rw [List.length_replicate], heard _ base, rfl, rfl, rfl⟩

/-- Both forms of the length field. -/
theorem witness_SpRxSkipsNoiseBeforeSync :
    let g : Bytes := [0x00, 0x13, 0xAA, 0x13]
    (let raw : Bytes := [0xAA, 0x55, 0x21, 0x01] ++ [0x09]
     let s := heard (byteEvents (g ++ raw)) base
     ¬ [(0xAA : Byte), 0x55] <:+: g ∧ g.getLast? ≠ some 0xAA ∧ s.sp.st = .idle ∧ s.reading = false ∧
      ([0x09] : Bytes).length < (if (0x21 : Byte) = 0x56 then 128 else 256) ∧
      raw = [0xAA, 0x55, 0x21, BitVec.ofNat 8 ([0x09] : Bytes).length] ++ [0x09] ∧
      s.chan.rx = byteEvents (g ++ raw) ++ []) ∧
    (let raw : Bytes := [0xAA, 0x55, 0x56, 0x80, 0x00]
     let s := heard (byteEvents (g ++ raw)) base
     s.sp.st = .idle ∧ s.reading = false ∧ ([] : Bytes).length ≤ 32767 ∧
      raw = [0xAA, 0x55, 0x56, BitVec.ofNat 8 (128 + ([] : Bytes).length / 256), BitVec.ofNat 8 (([] : Bytes).length % 256)] ++ [] ∧
      s.chan.rx = byteEvents (g ++ raw) ++ []) := by decide +kernel

theorem witness_ReceiveInProgressIsBusy : (hunting [] base).sp.st ≠ .idle := by decide

theorem witness_SpStepHuntsForSync : (hunting [] base).sp.st = .hunt0 ∧ (inState .hunt1 ⟨.hunt1, 0, 0, 0, 0, [0xAA]⟩).sp.st = .hunt1 := by
  decide

/-- One framer for each clause of the header and payload parser. -/
theorem witness_FramerParsesHeaderAndPayload :
    (⟨.cmd, 0, 0, 0, 0, [0xAA, 0x55]⟩ : Framer).st = .cmd ∧
    ((⟨.len0, 0x56, 0, 0, 0, []⟩ : Framer).st = .len0 ∧ (⟨.len0, 0x56, 0, 0, 0, []⟩ : Framer).cmd = 0x56 ∧ 128 ≤ (0x80 : Byte).toNat) ∧
    ((⟨.len0, 0x56, 0, 0, 0, []⟩ : Framer).st = .len0 ∧ (0x7F : Byte).toNat < 128 ∧ (0x7F : Byte) ≠ 0) ∧
    ((⟨.len0, 0x21, 0, 0, 0, []⟩ : Framer).cmd ≠ 0x56 ∧ (0xFF : Byte) ≠ 0) ∧
    ((⟨.len1, 0x56, 0, 0, 0, []⟩ : Framer).len ||| (0x03 : Byte).setWidth 15 ≠ 0) ∧
    ((⟨.len1, 0x56, 0, 0, 0, []⟩ : Framer).len ||| (0x00 : Byte).setWidth 15 = 0) ∧
    ((⟨.payload, 0x21, 2, 0, 4, []⟩ : Framer).cnt + 1 ≠ (⟨.payload, 0x21, 2, 0, 4, []⟩ : Framer).len) ∧
    ((⟨.payload, 0x21, 2, 1, 4, []⟩ : Framer).cnt + 1 = (⟨.payload, 0x21, 2, 1, 4, []⟩ : Framer).len) := by decide

/-- No outcome, a packet, and an error. -/
theorem witness_SpStepCompletesOutsideIdle :
    (let s := hunting [] base
     s.sp.st ≠ .idle ∧ (s.sp.step (.byte 0xAA)).2 = none) ∧
    (let s := inState .len0 ⟨.len0, 0x21, 0, 0, 0, [0xAA, 0x55, 0x21]⟩
     s.sp.st ≠ .idle ∧ s.task = some [] ∧
      (match (s.sp.step (.byte 0)).2 with | some (.ok p) => p == ⟨0x21, [], [0xAA, 0x55, 0x21, 0x00], 4⟩ | _ => false) = true) ∧
    (let s := hunting [] base
     s.sp.st ≠ .idle ∧ s.task = some [] ∧
      (match (s.sp.step .timeout).2 with | some (.error x) => x == .frameSyncTimeout | _ => false) = true) := by decide +kernel

theorem witness_FramerErrorsEndTheReceive : (⟨.hunt1, 0, 0, 0, 0, [0xAA]⟩ : Framer).st = .hunt1 ∧
    (⟨.payload, 0, 3, 1, 4, []⟩ : Framer).st = .payload ∧ (⟨.len1, 0, 3, 1, 4, []⟩ : Framer).st ≠ .idle := by decide

theorem witness_FramerKeepsItsRegistersInStep :
    (⟨.payload, 0x21, 1, 0, 4, [0xAA, 0x55, 0x21, 0x01]⟩ : Framer).ok = true ∧
    (match ((⟨.payload, 0x21, 1, 0, 4, [0xAA, 0x55, 0x21, 0x01]⟩ : Framer).step (.byte 0x09)).2 with
      | some (.ok p) => p == ⟨0x21, [0x09], [0xAA, 0x55, 0x21, 0x01, 0x09], 4⟩
      | _ => false) = true ∧
    (⟨.len1, 0x56, 0x100, 0, 0, [0xAA, 0x55, 0x56, 0x81]⟩ : Framer).ok = true := by decide +kernel

theorem witness_LengthEncodingHasItsBoundary : (127 < 128) ∧ (128 ≤ 128 ∧ 128 ≤ 32767) ∧ (128 ≤ 32767 ∧ 32767 ≤ 32767) ∧ 32767 < 32768 := by
  decide

theorem witness_LengthDecodingUndoesEncoding : (0x7F : Byte).toNat < 128 ∧ 128 ≤ (0x80 : Byte).toNat ∧ 128 ≤ (0xFF : Byte).toNat ∧
    (match extLenEnc 32767 with | .ok enc => enc == [0xFF, 0xFF] | .error _ => false) = true := by decide +kernel

theorem witness_ExtTxAssemblesTheFrame : ([] : Bytes).length ≤ 32767 ∧ (List.replicate 32767 (7 : Byte)).length ≤ 32767 ∧
    32767 < (List.replicate 32768 (7 : Byte)).length := by
  simp only [List.length_replicate, List.length_nil]; omega

theorem witness_FramesCheckToZeroAndDecodeBack : base.params.innerLen = true ∧
    (extTx 0x22 []).toOption = some [0xC9, 0x36, 0xB8, 0x47, 0x56, 0x22, 0x00, 0x60, 0xFC] ∧
    (extReply base.params 0x19 [0xD9]).toOption = some [0xAA, 0x55, 0x56, 0x05, 0x19, 0x01, 0xD9, 0xD5, 0xB1] := by decide +kernel

/-- Z9, Z10, Z13, Z3: one packet for each clause. -/
theorem witness_ExtDecodeReportsTheFirstFailure :
    (0x21 : Byte) ≠ 0x56 ∧
    crcBitwise 0x1021#16 [0xAA, 0x55, 0x56, 0x05, 0x19, 0x00, 0xD9, 0xD5, 0xB1] 0 ≠ 0 ∧
    (crcBitwise 0x1021#16 [0xAA, 0x55, 0x56, 0x02, 0xB3, 0xB8] 0 = 0 ∧
      ([0xB3, 0xB8] : Bytes).length < (if base.params.innerLen then 4 else 3)) ∧
    (crcBitwise 0x1021#16 [0xAA, 0x55, 0x56, 0x05, 0x13, 0x01, 0x76, 0x56, 0x75] 0 = 0 ∧
      (if base.params.innerLen then 4 else 3) ≤ ([0x13, 0x01, 0x76, 0x56, 0x75] : Bytes).length ∧ (0x13 : Byte) ≠ 0x14) := by decide +kernel

/-- Z12, Z5, Z2, Z1, Z8: one body for each clause. -/
theorem witness_ExtDecodeChecksLengthThenAck :
    base.params.innerLen = true ∧ (nackOfByte base.params.ackByte).isNone ∧
    (crcBitwise 0x1021#16 ([0xAA, 0x55, 0x56, 0x05] ++ ([0x19] ++ [0x02] ++ [0xD9] ++ [0x80, 0xE2])) 0 = 0 ∧
      (extLenEnc 2).toOption = some [0x02] ∧ 2 ≠ ([0xD9] : Bytes).length) ∧
    (crcBitwise 0x1021#16 ([0xAA, 0x55, 0x56, 0x04] ++ ([0x22] ++ [0x00] ++ [] ++ [0xBF, 0xA9])) 0 = 0 ∧
      (extLenEnc 0).toOption = some [0x00] ∧ 0 = ([] : Bytes).length) ∧
    (crcBitwise 0x1021#16 ([0xAA, 0x55, 0x56, 0x05] ++ ([0x19] ++ [0x01] ++ [0xD9] ++ [0xD5, 0xB1])) 0 = 0 ∧
      (extLenEnc 1).toOption = some [0x01] ∧ 1 = ([0xD9] : Bytes).length ∧ (ackDecode base.params 0xD9).toOption = none) ∧
    (crcBitwise 0x1021#16 ([0xAA, 0x55, 0x56, 0x09] ++ ([0x22] ++ [0x05] ++ [0x76, 1, 2, 3, 4] ++ [0x9A, 0xA3])) 0 = 0 ∧
      (extLenEnc 5).toOption = some [0x05] ∧ 5 = ([0x76, 1, 2, 3, 4] : Bytes).length ∧
      ([0x76, 1, 2, 3, 4] : Bytes) = acked base.params ⟨true, true, 4⟩ [1, 2, 3, 4]) := by decide +kernel

/-- The shape that the reply statements ask of a state: the primary device, idle, no reader, writes accepted, the reply in the channel. -/
def ready (sub : Byte) (c : Checks) (d : Bytes) (rest : List Event) : State :=
  heard (byteEvents (replyOf base.params sub (acked base.params c d)) ++ rest) base

/-- The hypotheses that the reply statements share, of a state whose channel begins with the reply to `sub`. -/
def Ready (sub : Byte) (c : Checks) (d : Bytes) (rest : List Event) (s : State) : Prop :=
  s.sp.st = .idle ∧ s.device = .primary ∧ s.reading = false ∧ s.accepts 1 = true ∧ (nackOfByte s.params.ackByte).isNone ∧ s.task = none ∧
    s.chan.rx = byteEvents (replyOf s.params sub (acked s.params c d)) ++ rest

theorem ready_meets (sub : Byte) (c : Checks) (d : Bytes) (rest : List Event) : Ready sub c d rest (ready sub c d rest) :=
  ⟨rfl, rfl, rfl, rfl, (by decide : (nackOfByte (0x76 : Byte)).isNone = true), rfl, rfl⟩

theorem witness_ExtRxReturnsTheReply : Ready 0x22 ackChecks [1, 2] [] (ready 0x22 ackChecks [1, 2] []) ∧
    (acked base.params ackChecks [1, 2]).length ≤ (if base.params.innerLen then 32762 else 32764) ∧
    (ackChecks.len = true → ([1, 2] : Bytes).length = ackChecks.expectedLen) ∧
    (acked base.params noChecks (List.replicate 200 7)).length ≤ (if base.params.innerLen then 32762 else 32764) :=
  ⟨ready_meets 0x22 ackChecks [1, 2] [], by decide +kernel⟩

/-- The longest reply. -/
theorem witness_ExtRxReturnsTheReply_longest :
    (acked base.params noChecks (List.replicate 32762 7)).length ≤ (if base.params.innerLen then 32762 else 32764) := by
  show (List.replicate 32762 (7 : Byte)).length ≤ 32762
  rw [List.length_replicate]

theorem witness_AckDecodeFollowsTheCatalogue : (0x76 : Byte) = base.params.ackByte ∧ (0xCF : Byte) ≠ base.params.ackByte ∧
    (nackOfByte 0xCF).isNone ∧ (nackOfByte 0xDC).isNone ∧ (nackOfByte base.params.ackByte).isNone := by decide

theorem witness_CobsDecodeIsTotal : (0 : Byte) ∉ ([0x05, 0x11, 0x22] : Bytes) ∧ overruns 3 [0x05, 0x11, 0x22] = true ∧
    (0 : Byte) ∉ ([0x03, 0x11, 0x22] : Bytes) ∧ overruns 3 [0x03, 0x11, 0x22] = false := by decide

theorem witness_StreamControlsWriteTheirRegister : rising (base.setSubs [sout]).mux.subs = true ∧ sout ∈ (base.setSubs [sout]).mux.subs ∧
    sout ∉ base.mux.subs := by decide

theorem witness_SubscriptionRefusesOtherLengths : ([] : Bytes).length ≠ 4 ∧ ([1, 2, 3] : Bytes).length ≠ 4 ∧ ([1, 2, 3, 4, 5] : Bytes).length ≠ 4 := by
  decide

theorem witness_MuxReadFiltersByTopic :
    let s := heard (byteEvents (muxFrame sout [])) (base.setSubs [sout])
    let u := heard (byteEvents (muxFrame serr [0])) (base.setSubs [sout])
    let v := heard (byteEvents ([0x05, 0x11] ++ [0])) base
    (s.reading = false ∧ s.task = none ∧ s.mux.cancel = false ∧ s.mux.buf = [] ∧ sout ∈ s.mux.subs ∧
      s.chan.rx = byteEvents (muxFrame sout []) ++ []) ∧
    (u.reading = false ∧ u.task = none ∧ u.mux.cancel = false ∧ u.mux.buf = [] ∧ u.mux.promisc = false ∧ serr ∉ u.mux.subs ∧
      u.chan.rx = byteEvents (muxFrame serr [0])) ∧
    (v.mux.buf = [] ∧ (0 : Byte) ∉ ([0x05, 0x11] : Bytes) ∧ cobsDecode [0x05, 0x11] = none ∧
      v.chan.rx = byteEvents ([0x05, 0x11] ++ [0])) ∧
    ((0 : Byte) ∉ ([0x03, 0x73, 0x6F] : Bytes) ∧ cobsDecode [0x03, 0x73, 0x6F] = some [0x73, 0x6F]) := by decide +kernel

theorem witness_MuxReadsDeliverInOrder :
    let fs : List (Topic × Bytes) := [(serr, [0x45]), (sout, [0x48]), (sout, [])]
    let s := heard (byteEvents (fs.flatMap fun f => muxFrame f.1 f.2)) (base.setSubs [sout])
    s.reading = false ∧ s.task = none ∧ s.mux.cancel = false ∧ s.mux.buf = [] ∧
      s.chan.rx = byteEvents (fs.flatMap fun f => muxFrame f.1 f.2) ∧
      [(sout, [0x48]), (sout, [])] = fs.filter (fun f => s.mux.promisc || s.mux.subs.contains f.1) := by decide +kernel

theorem witness_CancelEndsTheWaitingRead :
    let s := heard [.cancel] { base with mux := ⟨[0x05, 0x73], [sout], false, false⟩ }
    let u : State := { base with mux := ⟨[0x05], [sout], false, true⟩ }
    let v : State := { base with mux := ⟨muxFrame sout [0x41] ++ [0x05], [sout], false, true⟩ }
    { base with reading := true }.reading = true ∧ base.reading = false ∧
    (s.reading = false ∧ s.task = none ∧ s.mux.cancel = false ∧ (0 : Byte) ∉ s.mux.buf ∧ s.chan.rx = .cancel :: []) ∧
    (u.reading = false ∧ u.task = none ∧ u.mux.cancel = true ∧ (0 : Byte) ∉ u.mux.buf) ∧
    (v.reading = false ∧ v.task = none ∧ sout ∈ v.mux.subs ∧ v.mux.buf = muxFrame sout [0x41] ++ [0x05]) := by decide +kernel

theorem witness_MuxReadMeetsTimeoutAndFailure :
    let s := heard [.chan .timeout, .chan .fail] base
    let u := heard [] base
    (s.reading = false ∧ s.task = none ∧ s.mux.cancel = false ∧ (0 : Byte) ∉ s.mux.buf ∧
      s.chan.rx = List.replicate 1 (.chan .timeout) ++ .chan .fail :: []) ∧
    u.chan.rx = List.replicate 0 (.chan .timeout) := by decide +kernel

theorem witness_WritesReachTheChannel : base.accepts 1 = true ∧
    { base with chan := { base.chan with writes := [.accepted, .failed 0] } }.accepts 1 = true ∧
    (extTx 0x22 []).toOption = some [0xC9, 0x36, 0xB8, 0x47, 0x56, 0x22, 0x00, 0x60, 0xFC] := by decide +kernel

theorem witness_LostAndOverlongRequestsRaise :
    let s : State := { base with chan := { base.chan with writes := [.failed 4] } }
    s.chan.writes = .failed 4 :: [] ∧ s.sp.st = .idle ∧ (extTx 0x22 []).toOption.isSome = true := by decide +kernel

theorem witness_LostAndOverlongRequestsRaise_overlong : 32767 < (List.replicate 32768 (7 : Byte)).length ∧ base.sp.st = .idle := by
  rw [List.length_replicate]; decide

theorem witness_ArrivalsStayInTheChannel : base.reading = false ∧ base.task = none ∧
    (List.replicate 255 (7 : Byte)).length < (if (0x21 : Byte) = 0x56 then 128 else 256) ∧
    (List.replicate 127 (7 : Byte)).length < (if (0x56 : Byte) = 0x56 then 128 else 256) ∧ ([] : Bytes).length ≤ 32767 ∧
    (extReply base.params 0x19 [0xD9]).toOption.isSome = true ∧
    ((List.replicate 254 (7 : Byte)).length ≤ 254 ∧ (0 : Byte) ∉ List.replicate 254 (7 : Byte)) := by decide +kernel

theorem witness_ArrivalsEndTheWait :
    let s := hunting [] base
    let u := hunting [.decode 0x22 ackChecks] base
    let v : State := { base with reading := true, mux := ⟨[], [sout], false, false⟩ }
    (s.chan.rx = [] ∧ s.sp.st = .hunt0 ∧ s.task = some [] ∧ s.reading = false) ∧
    (u.chan.rx = [] ∧ u.sp.st = .hunt0 ∧ u.task = some [.decode 0x22 ackChecks] ∧ u.reading = false ∧
      (nackOfByte u.params.ackByte).isNone ∧ (acked u.params ackChecks [1, 2]).length ≤ (if u.params.innerLen then 32762 else 32764) ∧
      (ackChecks.len = true → ([1, 2] : Bytes).length = ackChecks.expectedLen)) ∧
    (v.chan.rx = [] ∧ v.reading = true ∧ v.task = none ∧ v.mux.cancel = false ∧ v.mux.buf = [] ∧ sout ∈ v.mux.subs) := by decide +kernel

theorem witness_ExchangesWriteTheirRequest : base.sp.st = .idle ∧ base.accepts 1 = true ∧ base.chan.rx = [] ∧
    base.device = .primary ∧ base.ft = none ∧
    (extTx 0x11 []).toOption.isSome = true ∧ (extTx 0x28 []).toOption.isSome = true ∧ (extTx 0x22 []).toOption.isSome = true := by
  decide +kernel

theorem witness_ExchangeReturnsTheReply : Ready 0x22 ackChecks [1, 2] [] (ready 0x22 ackChecks [1, 2] []) ∧
    ([] : Bytes).length ≤ 32767 ∧
    (acked base.params ackChecks [1, 2]).length ≤ (if base.params.innerLen then 32762 else 32764) ∧
    (ackChecks.len = true → ([1, 2] : Bytes).length = ackChecks.expectedLen) ∧ 1 ≤ (tries 1).max ∧
    (ready 0x22 ackChecks [1, 2] []).snapshot = none ∧
    { ready 0x22 ackChecks [1, 2] [] with snapshot := some [9] }.snapshot = some [9] :=
  ⟨ready_meets 0x22 ackChecks [1, 2] [], by decide +kernel⟩

/-- Both branches: enough allotted, and too little. -/
theorem witness_FtInitOpensTheSession : Ready 0x11 (initChecks small) [4, 8, 0] [] (ready 0x11 (initChecks small) [4, 8, 0] []) ∧
    (ready 0x11 (initChecks small) [4, 8, 0] []).chan.rx =
      byteEvents (replyOf base.params 0x11 (base.params.ackByte :: [4, 8, 0])) ++ [] ∧
    (initPayload small { initArgs with name := initArgs.name.take 24 }).length ≤ 32767 ∧
    ([4, 8, 0] : Bytes).length = small.initReplyLen ∧ ([4, 8, 0] : Bytes).length < 32762 ∧
    ¬ sliceNat [4, 8, 0] small.fileSize < initArgs.length ∧ sliceNat [4, 4, 0] small.fileSize < initArgs.length :=
  ⟨ready_meets 0x11 (initChecks small) [4, 8, 0] [], by decide +kernel⟩

theorem witness_FtWritePadsAndAdvances : Ready 0x13 ackOnly [] [] (ready 0x13 ackOnly [] []) ∧
    (ready 0x13 ackOnly [] []).chan.rx = byteEvents (replyOf base.params 0x13 [base.params.ackByte]) ++ [] ∧
    (layOut small.write { int := [(.address, 0x100)], blob :=
      [(.data, [9] ++ List.replicate ((4 - ([9] : Bytes).length % 4) % 4) base.params.padByte)] }).length ≤ 32767 :=
  ⟨ready_meets 0x13 ackOnly [] [], by decide +kernel⟩

theorem witness_FtReadRoundsAndTrims : Ready 0x14 ackOnly (List.replicate 12 7) [] (ready 0x14 ackOnly (List.replicate 12 7) []) ∧
    (layOut small.read { int := [(.address, 0x100), (.size, (10 + 3) / 4 * 4)], blob := [] }).length ≤ 32767 ∧
    (acked base.params ackOnly (List.replicate 12 7)).length ≤ (if base.params.innerLen then 32762 else 32764) ∧
    (ackOnly.len = true → (List.replicate 12 (7 : Byte)).length = ackOnly.expectedLen) :=
  ⟨ready_meets 0x14 ackOnly (List.replicate 12 7) [], by decide +kernel⟩

theorem witness_FtCompleteDiscardsTheSession : Ready 0x12 ackOnly [] [] (ready 0x12 ackOnly [] []) ∧
    (ready 0x12 ackOnly [] []).chan.rx = byteEvents (replyOf base.params 0x12 [base.params.ackByte]) ++ [] ∧
    (completePayload small .runNow).length ≤ 32767 :=
  ⟨ready_meets 0x12 ackOnly [] [], by decide +kernel⟩

/-- A state and an error for each clause, and the four operations' requests. -/
theorem witness_FtErrorsDiscardTheSession :
    (initPayload small initArgs).length ≤ 32767 ∧ (writePayload base.params 0x100 [9]).length ≤ 32767 ∧
    (readPayload small 0x100 10).length ≤ 32767 ∧ (completePayload small .runNow).length ≤ 32767 ∧
    (hunting [] base).sp.st ≠ .idle ∧ base.device = .primary ∧
    { base with chan := { base.chan with writes := [.failed 4] } }.chan.writes = .failed 4 :: [] ∧
    (heard ([.chan .timeout] ++ []) base).sp.st = .idle ∧ (heard ([.chan .fail] ++ []) base).chan.rx = [.chan .fail] ++ [] ∧
    (let pk : Packet := ⟨0x56, [0x13, 0x01, 0x76, 0x56, 0x74], [0xAA, 0x55, 0x56, 0x05, 0x13, 0x01, 0x76, 0x56, 0x74], 4⟩
     (pk.payload.length < (if pk.cmd = 0x56 then 128 else 256) ∧ pk.hlen = 4 ∧
       pk.raw = [0xAA, 0x55, pk.cmd, BitVec.ofNat 8 pk.payload.length] ++ pk.payload) ∧ 2 ≤ 8 ∧ 8 < pk.raw.length ∧
     (match extDecode base.params pk 0x13 ackOnly with | .error x => x == .checksumMismatch | .ok _ => false) = true ∧
     (heard (byteEvents (pk.raw.take 8) ++ [.chan .timeout]) base).chan.rx = byteEvents (pk.raw.take 8) ++ [.chan .timeout] ++ []) ∧
    (heard (byteEvents (replyOf base.params 0x13 [NackCode.addressMismatch.byte]) ++ [.chan .timeout]) base).chan.rx =
      byteEvents (replyOf base.params 0x13 [NackCode.addressMismatch.byte]) ++ [.chan .timeout] := by decide +kernel

/-- A request that is too long: the name's padding fills it. -/
theorem witness_FtErrorsDiscardTheSession_overlong (p : Params)
    (h : p = { base.params with layouts := { small with complete := [.padded .name 32768 0] } }) :
    32767 < (completePayload p.layouts .runNow).length ∧ { base with params := p }.sp.st = .idle := by
  subst h
  refine ⟨?_, rfl⟩
  rw [completePayload, layOut, List.flatMap_cons, List.flatMap_nil, List.append_nil, pieceBytes, List.length_take,
    List.length_append, List.length_replicate]
  omega

theorem witness_ChunksCoverThePayload : 0 < 1 ∧ 0 + 1 < chunkCount 5 4 ∧ 1 + 1 = chunkCount 5 4 ∧ 0 + 1 = chunkCount 512 512 := by decide

/-- Two chunks of an upload, and one that has no chunk at all. -/
theorem witness_FtUploadSendsEveryChunkInOrder :
    let q : Bytes := [4, 5, 0]
    let s := heard (byteEvents (replyOf base.params 0x11 (base.params.ackByte :: q) ++
      (List.replicate 2 (replyOf base.params 0x13 [base.params.ackByte])).flatten ++ replyOf base.params 0x12 [base.params.ackByte]) ++ []) base
    2 = (upArgs.payload.length + upArgs.chunk - 1) / upArgs.chunk ∧ 0 < upArgs.chunk ∧ s.sp.st = .idle ∧ s.reading = false ∧
      s.device = .primary ∧ s.accepts (2 + 2) = true ∧ (nackOfByte s.params.ackByte).isNone ∧ q.length = s.params.layouts.initReplyLen ∧ q.length < 32762 ∧
      upArgs.payload.length ≤ sliceNat q s.params.layouts.fileSize ∧
      (initPayload s.params.layouts ⟨upArgs.name, .upload, upArgs.target, upArgs.volume, upArgs.payload.length, upArgs.address,
        crcBitwise 0x04C11DB7#32 upArgs.payload 0, upArgs.overwrite, upArgs.typeTag, upArgs.timestamp, upArgs.version⟩).length ≤ 32767 ∧
      (∀ i < 2, (writePayload s.params (upArgs.address + i * upArgs.chunk)
        ((upArgs.payload.drop (i * upArgs.chunk)).take upArgs.chunk)).length ≤ 32767) ∧
      (completePayload s.params.layouts upArgs.run).length ≤ 32767 ∧
    0 = (({ upArgs with payload := [] } : UploadArgs).payload.length + upArgs.chunk - 1) / upArgs.chunk := by decide +kernel

theorem witness_FtDownloadJoinsTheChunks :
    let q : Bytes := [4, 5, 0]
    let block : Nat → Bytes := fun i => if i = 0 then [1, 2, 3, 4] else [5, 6, 7, 8]
    let p := base.params
    let s := heard (byteEvents (replyOf p 0x11 (p.ackByte :: q) ++
      (List.range 2).flatMap (fun i => replyOf p 0x14 (acked p downArgs.checks (block i))) ++ replyOf p 0x12 [p.ackByte]) ++ []) base
    2 = (downArgs.length + downArgs.chunk - 1) / downArgs.chunk ∧ 0 < downArgs.chunk ∧ s.sp.st = .idle ∧ s.reading = false ∧
      s.device = .primary ∧ s.accepts (2 + 2) = true ∧ (nackOfByte p.ackByte).isNone ∧ q.length = p.layouts.initReplyLen ∧ q.length < 32762 ∧
      downArgs.length ≤ sliceNat q p.layouts.fileSize ∧ (initPayload p.layouts (downloadInit downArgs)).length ≤ 32767 ∧
      (∀ i < 2, (readPayload p.layouts (downArgs.address + i * downArgs.chunk)
        (min downArgs.chunk (downArgs.length - i * downArgs.chunk))).length ≤ 32767) ∧
      (∀ i < 2, (acked p downArgs.checks (block i)).length ≤ (if p.innerLen then 32762 else 32764) ∧
        (downArgs.checks.len = true → (block i).length = downArgs.checks.expectedLen)) ∧
      (completePayload p.layouts .dontRun).length ≤ 32767 := by decide +kernel

/-- Success on the last attempt, and one attempt in all; a write, the first attempt of which is rejected for a reason that is
retried, and which is then acknowledged; an operation of one attempt. -/
theorem witness_RetryRepeatsTheWholeOperation :
    (let s := heard (List.replicate 2 (.chan .timeout) ++ byteEvents (replyOf base.params 0x22 (acked base.params ackChecks [1, 2])) ++ []) base
     s.sp.st = .idle ∧ s.reading = false ∧ s.accepts (2 + 1) = true ∧ (nackOfByte s.params.ackByte).isNone ∧ 2 < (tries 3).max ∧
      retries s.params .classify .frameSyncTimeout = true ∧
      s.chan.rx = List.replicate 2 (.chan .timeout) ++ byteEvents (replyOf s.params 0x22 (acked s.params ackChecks [1, 2])) ++ []) ∧
    (0 < 1 ∧ (heard [.chan .timeout] base).chan.rx = List.replicate 1 (.chan .timeout) ++ []) ∧
    (0 < 1 ∧ retries base.params .classify (.transport .channelFailure) = false ∧
      (heard [.chan .fail] base).chan.rx = List.replicate 0 (.chan .timeout) ++ .chan .fail :: []) ∧
    (let s := heard (byteEvents (replyOf base.params 0x13 [0xCE] ++ ackWrite)) base
     s.sp.st = .idle ∧ s.reading = false ∧ s.task = none ∧ retries s.params .classify (.deviceRejected .crcError) = true ∧
     (nextOf (exec (.retry (.write 0x100 [9]) (tries 1)) s)).map (fun t => (t.task, t.reports)) =
      some (none, s.reports ++ [⟨.owner, .error (.deviceRejected .crcError)⟩]) ∧
     (((nextOf (exec (.retry (.write 0x100 [9]) (tries 1)) s)).bind fun t =>
        nextOf (exec (.retry (.write 0x100 [9]) (tries 1)) { t with reports := s.reports })).map fun u => (u.task, u.reports)) =
      some (none, [⟨.owner, .ok .unit⟩])) ∧
    (let s := heard (byteEvents ackWrite) base
     opInstr (.write 0x100 [9]) = some (.ftWrite 0x100 [9]) ∧
     (nextOf (exec (.ftWrite 0x100 [9]) s)).map (fun t => t.task) = some none ∧
     (nextOf (exec (.retry (.write 0x100 [9]) (tries 1)) s)).map (fun t => t.task) = some none) := by decide +kernel

theorem witness_CasesOutsideTheRulesStopByName : base.sp.st = .idle ∧ { base with reading := true }.reading = true ∧
    { upArgs with chunk := 0 }.chunk = 0 ∧ { downArgs with chunk := 0 }.chunk = 0 ∧ (7 < 8) ∧ (⟨7, 1⟩ : TableRef).width < 8 ∧
    (bootState .unknown none []).device = .legacy ∧ base.device = .primary ∧ 0 < upArgs.chunk ∧ 0 < downArgs.chunk ∧
    0 < (tries 1).max ∧ 256 < (List.replicate 257 (7 : Byte)).length ∧
    256 ≤ (List.replicate 256 (7 : Byte)).length ∧ 254 < (List.replicate 255 (7 : Byte)).length ∧ (0 : Byte) ∈ ([1, 0] : Bytes) := by
  decide +kernel

theorem witness_CasesOutsideTheRulesStopByName_overlong : 32767 < (List.replicate 32768 (7 : Byte)).length := by
  rw [List.length_replicate]; decide

/-- A state for each clause: an answer, a missing acknowledgment, an error that is not retried, a handshake at its bound and
one beyond it, a write at the last address, and a jump before anything else. -/
theorem witness_LegacyDeviceFollowsItsChain :
    let s := bootState .programming (some 8) [.done]
    let u := bootState .programming (some 8) [.silent]
    let x := bootState .programming (some 8) [.failed (.transport .channelFailure)]
    let v := bootState .unknown none ([.failed .busy, .silent] ++ .done :: [])
    let w := bootState .unknown none ([.failed .busy, .silent] ++ .failed .busy :: [])
    LegacyState.unknown.after .handshake = some .negotiated ∧
    (s.device = .legacy ∧ 1 ≤ (tries 1).max ∧ s.legacy.st.after (.programWrite 9 [7]) = some .programming ∧
      s.legacy.answers = .done :: [] ∧ (List.replicate 256 (7 : Byte)).length ≤ 256 ∧ s.legacy.last = some 8 ∧ 8 < 9) ∧
    (u.legacy.answers = .silent :: [] ∧ u.legacy.st.after (.jump 0) = some .jumped ∧ (tries 1).max = 1 ∧
      u.legacy.st.after (.programWrite 9 [7]) = some .programming) ∧
    (x.legacy.answers = .failed (.transport .channelFailure) :: [] ∧
      retries x.params (tries 3).retryable (.transport .channelFailure) = false) ∧
    (v.legacy.st.after .handshake = some .negotiated ∧ ([.failed .busy, .silent] : List BootAnswer).length ≤ v.params.bootExtraTries ∧
      .done ∉ ([.failed .busy, .silent] : List BootAnswer) ∧
      v.legacy.answers = [.failed .busy, .silent] ++ .done :: []) ∧
    (([.failed .busy, .silent] : List BootAnswer).length = w.params.bootExtraTries ∧
      w.legacy.answers = [.failed .busy, .silent] ++ .failed .busy :: []) ∧
    ((List.replicate 256 (7 : Byte)).length ≤ 256 ∧ s.legacy.last = some 8 ∧ 8 ≤ 8) ∧
    (v.legacy.st.after (.jump 0) = none ∧ 1 ≤ (tries 1).max) := by decide +kernel

theorem witness_StepRunsTheDecodedInstruction : (base.withPort [0, 6]).chan.alive = true ∧
    (base.withPort [0, 6]).resetAsked = false ∧ (base.withPort [0, 6]).port ≠ [] ∧
    dec (base.withPort [0, 6]).port = some .spRx := by decide +kernel

theorem witness_StepWithoutAnInstruction : { base with resetAsked := true }.resetAsked = true ∧ base.resetAsked = false ∧
    (nextOf (step { base with resetAsked := true, querying := true })).map State.primary = some .querying ∧
    base.chan.alive = true ∧ base.port = [] ∧ base.waiting = false ∧
    (base.withPort [0, 31]).port ≠ [] ∧ dec [0, 31] = none ∧
    { base with chan := { base.chan with alive := false } }.chan.alive = false := by decide +kernel

theorem witness_DecodeUndoesEncode : (Instr.spStep (.byte 0xAA)).wellFormed Params.default = true ∧
    (Instr.ftUpload upArgs).wellFormed Params.default = true ∧
    decode Params.default (encode Params.default (.ftUpload upArgs) ++ [0, 6]) = .ok (.ftUpload upArgs, [0, 6]) := ⟨rfl, rfl, rfl⟩

/-- A step that keeps the invariant while a receive goes on. -/
theorem witness_EveryStepKeepsTheInvariant : (hunting [] (base.withPort [0, 7, 0, 0xAA])).inv = true ∧
    (nextOf (step (hunting [] (base.withPort [0, 7, 0, 0xAA])))).isSome = true := by decide +kernel

theorem witness_NoStepTakesBack : (nextOf (step ({ base with mux := ⟨[], [], false, true⟩ }.withPort [0, 5, 0x21, 0, 0, 0, 0]))).isSome = true := by
  decide +kernel

theorem witness_StreamAndRequestsShareNoRegister : base.task = none ∧ base.reading = false ∧ (nextOf (exec .muxRead base)).isSome = true ∧
    (nextOf (exec .spRx base)).isSome = true := by decide +kernel


end Sys2Proof.Tests
end

section
/-! What every step keeps (O58) and never takes back (O59), and the steps that carry out no instruction (O53). -/

namespace Sys2Proof.Machine

/-! The framer's registers. -/

theorem prefixed_iff (f : Framer) (n : Nat) :
    f.prefixed n = true ↔ f.raw.length = n ∧ f.raw.take 3 = [Config.sync0, Config.sync1, f.cmd].take n := by
  simp [Framer.prefixed]

/-- Up to the command, the bytes held are the sync and the command themselves. -/
theorem prefixed_short (f : Framer) {n : Nat} (hn : n ≤ 3) (h : f.prefixed n = true) :
    f.raw = [Config.sync0, Config.sync1, f.cmd].take n := by
  obtain ⟨hlen, htake⟩ := (prefixed_iff f n).mp h
  rwa [List.take_of_length_le (by omega)] at htake

/-- One more byte after the command leaves the beginning of the bytes held as it was. -/
theorem prefixed_append (f g : Framer) {n : Nat} (b : Byte) (hn : 3 ≤ n) (h : f.prefixed n = true)
    (hraw : g.raw = f.raw ++ [b]) (hcmd : g.cmd = f.cmd) : g.prefixed (n + 1) = true := by
  obtain ⟨hlen, htake⟩ := (prefixed_iff f n).mp h
  rw [prefixed_iff, hraw, hcmd, List.take_append_of_le_length (by omega), htake]
  refine ⟨by simp [hlen], ?_⟩
  rw [List.take_of_length_le (by simpa using hn), List.take_of_length_le (by simp; omega)]

/-- What the length field says, in either form, of the bytes held (30_encoding R65). -/
def Framer.lengthRead (f : Framer) : Prop :=
  (f.hlen = 4 ∧ twoLengthBytes f.cmd (f.raw.getD 3 0) = false ∧ f.len = (f.raw.getD 3 0).setWidth 15) ∨
  (f.hlen = 5 ∧ twoLengthBytes f.cmd (f.raw.getD 3 0) = true ∧ f.len = lenTwo (f.raw.getD 3 0) (f.raw.getD 4 0))

theorem Framer.lengthRead.three_le {f : Framer} (h : f.lengthRead) : 3 ≤ f.hlen.toNat := by
  obtain ⟨h, -⟩ | ⟨h, -⟩ := h <;> rw [h] <;> decide

/-- The length field stays where it is when a byte follows. -/
theorem Framer.lengthRead.append {f g : Framer} (h : f.lengthRead) (hheld : f.hlen.toNat ≤ f.raw.length) (b : Byte)
    (hg : g = { f with raw := f.raw ++ [b], cnt := g.cnt, st := g.st }) : g.lengthRead := by
  rw [hg]
  obtain ⟨h4, h⟩ | ⟨h5, h⟩ := h
  · rw [h4] at hheld
    refine .inl ⟨h4, ?_⟩
    rwa [List.getD_append _ _ _ _ (show 3 < f.raw.length from hheld)]
  · rw [h5] at hheld
    refine .inr ⟨h5, ?_⟩
    rwa [List.getD_append _ _ _ _ (show 3 < f.raw.length from Nat.lt_of_succ_lt hheld),
      List.getD_append _ _ _ _ (show 4 < f.raw.length from hheld)]

/-- The registers while the payload comes in. -/
theorem ok_payload_iff (f : Framer) (hst : f.st = .payload) :
    f.ok = true ↔ f.prefixed (f.hlen.toNat + f.cnt.toNat) = true ∧ f.cnt.toNat < f.len.toNat ∧ f.lengthRead := by
  simp [Framer.ok, hst, Framer.lengthRead, and_assoc]

/-- After the length field the registers agree, whether a payload is announced or not (41_simple_packet R107, R108). -/
theorem startPayload_ok (f : Framer) (hcnt : f.cnt = 0) (hraw : f.prefixed f.hlen.toNat = true) (hlen : f.lengthRead) :
    f.startPayload.1.ok = true := by
  unfold Framer.startPayload
  split <;> rename_i hz
  · rfl
  · have hpos : 0 < f.len.toNat := Nat.pos_of_ne_zero fun h => hz (BitVec.eq_of_toNat_eq (by simpa using h))
    refine (ok_payload_iff { f with st := .payload } rfl).mpr ⟨?_, ?_, hlen⟩
    · rw [hcnt]; exact hraw
    · rw [hcnt]; exact hpos

/-- A payload byte: the packet is complete, or the count is still below the length (41_simple_packet R109). -/
theorem onByte_payload_ok (f : Framer) (b : Byte) (hst : f.st = .payload) (h : f.ok = true) : (f.onByte b).1.ok = true := by
  obtain ⟨hraw, hcnt, hlen⟩ := (ok_payload_iff f hst).mp h
  have hlong := hlen.three_le
  simp only [Framer.onByte, hst]
  split <;> rename_i hend
  · rfl
  · have hone : (f.cnt + 1).toNat = f.cnt.toNat + 1 := by bv_omega
    have hne : f.cnt.toNat + 1 ≠ f.len.toNat := fun h => hend (BitVec.eq_of_toNat_eq (hone.trans h))
    have hheld : f.raw.length = f.hlen.toNat + f.cnt.toNat := ((prefixed_iff f _).mp hraw).1
    refine (ok_payload_iff { f with raw := f.raw ++ [b], cnt := f.cnt + 1, st := .payload } rfl).mpr
      ⟨?_, ?_, hlen.append (by omega) b rfl⟩ <;> dsimp only <;> rw [hone]
    · exact prefixed_append f _ b (hlong.trans (Nat.le_add_right _ _)) hraw rfl rfl
    · omega

theorem onByte_ok (f : Framer) (b : Byte) (h : f.ok = true) : (f.onByte b).1.ok = true := by
  by_cases hp : f.st = .payload
  · exact onByte_payload_ok f b hp h
  unfold Framer.onByte
  unfold Framer.ok at h
  split <;> rename_i hst <;> rw [hst] at h <;> simp only at h
  case h_1 => simp [Framer.ok, hst]
  case h_2 => split <;> simp [Framer.ok, Framer.prefixed]
  case h_3 => 
    have hraw := prefixed_short f (by decide) h
    split <;> simp [Framer.ok, Framer.prefixed, hraw]
  case h_4 => 
    have hraw := prefixed_short f (by decide) h
    simp [Framer.ok, Framer.prefixed, hraw]
  case h_5 =>
    have hraw := prefixed_short f (by decide) h
    split <;> rename_i htwo
    · simp [Framer.ok, Framer.prefixed, hraw, htwo]
    · exact startPayload_ok _ rfl (by simp [Framer.prefixed, hraw]) (.inl ⟨rfl, by simpa [hraw] using htwo, by simp [hraw]⟩)
  case h_6 =>
    simp only [Bool.and_eq_true, beq_iff_eq] at h
    obtain ⟨⟨hraw, htwo⟩, hlen⟩ := h
    have hheld : f.raw.length = 4 := ((prefixed_iff f 4).mp hraw).1
    have h3 : (f.raw ++ [b]).getD 3 0 = f.raw.getD 3 0 := List.getD_append _ _ _ _ (by omega)
    have h4 : (f.raw ++ [b]).getD 4 0 = b := by simp [hheld]
    exact startPayload_ok _ rfl (prefixed_append f _ b (by decide) hraw rfl rfl)
      (.inr ⟨rfl, h3 ▸ htwo, by dsimp only; rw [h3, h4, hlen]; rfl⟩)
  case h_7 => exact absurd hst hp
theorem framer_step_ok (f : Framer) (e : ChanEvent) (h : f.ok = true) : (f.step e).1.ok = true := by
  unfold Framer.step
  split
  · exact h
  · cases e with
    | byte b => exact onByte_ok f b h
    | timeout => rfl
    | fail => rfl

theorem framer_arm_ok (f : Framer) : f.arm.ok = true := by simp [Framer.ok, Framer.arm, Framer.prefixed]

/-! The invariant, in two parts: what holds of a state also while events are being consumed, and that none is left over. -/

/-- The invariant but for the events in the channel (`State.inv`). -/
structure State.Sound (s : State) : Prop where
  framer : s.sp.ok = true
  task : s.task.isSome = true ↔ s.sp.st ≠ .idle
  reader : s.reading = true → s.mux.cancel = false ∧ Config.muxDelim ∉ s.mux.buf
  subs : rising s.mux.subs = true
  legacy : s.legacy.ok = true
  record : s.ft.isSome → s.querying = false
  params : s.params.wf = true

/-- While an operation waits, no event is left in the channel (00_scope R13). -/
def State.Settled (s : State) : Prop := s.waiting = true → s.chan.rx = []

theorem inv_iff (s : State) : s.inv = true ↔ s.Sound ∧ s.Settled := by
  have htask : (s.task.isSome == (s.sp.st != .idle)) = true ↔ (s.task.isSome = true ↔ s.sp.st ≠ .idle) := by
    rw [beq_iff_eq, Bool.eq_iff_iff, bne_iff_ne]
  have hsettled : (!s.waiting || s.chan.rx.isEmpty) = true ↔ s.Settled := by
    cases h : s.waiting <;> simp [State.Settled, h]
  have hreader : (!s.reading || (!s.mux.cancel && !s.mux.buf.contains Config.muxDelim)) = true ↔
      (s.reading = true → s.mux.cancel = false ∧ Config.muxDelim ∉ s.mux.buf) := by
    cases h : s.reading <;> simp
  have hrecord : (s.ft.isNone || !s.querying) = true ↔ (s.ft.isSome → s.querying = false) := by
    cases h : s.ft <;> simp
  simp only [State.inv, Bool.and_eq_true, htask, hsettled, hreader, hrecord]
  constructor
  · rintro ⟨⟨⟨⟨⟨⟨⟨hsp, ht⟩, hs⟩, hr⟩, hsubs⟩, hl⟩, hq⟩, hp⟩
    exact ⟨⟨hsp, ht, hr, hsubs, hl, hq, hp⟩, hs⟩
  · rintro ⟨⟨hsp, ht, hr, hsubs, hl, hq, hp⟩, hs⟩
    exact ⟨⟨⟨⟨⟨⟨⟨hsp, ht⟩, hs⟩, hr⟩, hsubs⟩, hl⟩, hq⟩, hp⟩

/-! What an operation keeps. -/

/-- `t` can follow `s`: nothing fixed is changed and nothing done is taken back (00_scope R9, 10_state R29, R30), and a sound
state stays sound. -/
structure Keeps (s t : State) : Prop where
  params : t.params = s.params
  device : t.device = s.device
  alive : t.chan.alive = s.chan.alive
  rank : s.legacy.st.rank ≤ t.legacy.st.rank
  commands : s.legacy.sent <+: t.legacy.sent
  cancel : s.mux.cancel = true → t.mux.cancel = true
  tx : s.chan.tx <+: t.chan.tx
  reports : s.reports <+: t.reports
  sound : s.Sound → t.Sound

theorem Keeps.refl (s : State) : Keeps s s :=
  ⟨rfl, rfl, rfl, le_rfl, List.prefix_rfl, id, List.prefix_rfl, List.prefix_rfl, id⟩

theorem Keeps.trans {s t u : State} (h : Keeps s t) (k : Keeps t u) : Keeps s u where
  params := k.params.trans h.params
  device := k.device.trans h.device
  alive := k.alive.trans h.alive
  rank := h.rank.trans k.rank
  commands := h.commands.trans k.commands
  cancel := k.cancel ∘ h.cancel
  tx := h.tx.trans k.tx
  reports := h.reports.trans k.reports
  sound := k.sound ∘ h.sound

theorem report_keeps (c : Caller) (r : Res) (s : State) : Keeps s (s.report c r) :=
  ⟨rfl, rfl, rfl, le_rfl, List.prefix_rfl, id, List.prefix_rfl, List.prefix_append _ _,
    fun h => ⟨h.framer, h.task, h.reader, h.subs, h.legacy, h.record, h.params⟩⟩

/-- The fields that neither the invariant nor the histories look at. -/
theorem registers_keep (s : State) (a : BitVec 16) (b : BitVec 32) (p : Bytes) (rx : List Event) (ws : List WriteAnswer)
    (arb : List Bool) (tx : Bytes) :
    Keeps s { s with acc16 := a, acc32 := b, port := p,
                     chan := { s.chan with rx := rx, tx := s.chan.tx ++ tx, writes := ws, arb := arb } } :=
  ⟨rfl, rfl, rfl, le_rfl, List.prefix_rfl, id, List.prefix_append _ _, List.prefix_rfl,
    fun h => ⟨h.framer, h.task, h.reader, h.subs, h.legacy, h.record, h.params⟩⟩

theorem rx_keeps (rx : List Event) (s : State) : Keeps s { s with chan := { s.chan with rx := rx } } := by
  simpa using registers_keep s s.acc16 s.acc32 s.port rx s.chan.writes s.chan.arb []

theorem arb_keeps (arb : List Bool) (s : State) : Keeps s { s with chan := { s.chan with arb := arb } } := by
  simpa using registers_keep s s.acc16 s.acc32 s.port s.chan.rx s.chan.writes arb []

/-- A host operation, with what is done to the framer and to the waiting operation around it, keeps everything if the framer's
registers agree in the end and an operation waits exactly then when the framer is not in `IDLE`. -/
theorem hosted_keeps {s u : State} {f g : Framer} {k : Option (List Frame)} {rs : List Report}
    (h : Hosted { s with sp := f } u) (hg : s.Sound → g.ok = true ∧ (k.isSome = true ↔ g.st ≠ .idle)) :
    Keeps s { u with sp := g, task := k, reports := s.reports ++ rs } := by
  obtain ⟨_, _, _, _, _, l, tx, _, ⟨hrank, hsent, hok⟩, hrecord, rfl⟩ := h
  exact ⟨rfl, rfl, rfl, hrank, hsent, id, List.prefix_append _ _, List.prefix_append _ _,
    fun hs => ⟨(hg hs).1, (hg hs).2, hs.reader, hs.subs, hok hs.legacy, hrecord hs.record, hs.params⟩⟩

/-- A host operation that ends at once. -/
theorem Hosted.keeps {s t : State} (h : Hosted s t) : Keeps s t := by
  have h' := hosted_keeps (f := s.sp) (rs := []) h fun hs => ⟨hs.framer, hs.task⟩
  obtain ⟨_, _, _, _, _, _, _, _, -, -, rfl⟩ := h
  simpa using h'

/-- An operation that waits with the framer armed. -/
theorem Hosted.keeps_armed {s u : State} {f : Framer} (h : Hosted { s with sp := f } u) (fs : List Frame) :
    Keeps s { u with sp := f.arm, task := some fs } := by
  have hr : u.reports = s.reports := h.sp_reports.2
  have h' := hosted_keeps (g := f.arm) (k := some fs) (rs := []) h fun _ => ⟨framer_arm_ok f, by simp⟩
  rwa [List.append_nil, ← hr] at h'

/-! The events. -/

/-- The framer takes an event: a packet or an error goes up to the operation that waits. -/
theorem framerEvent_keeps (e : ChanEvent) (s : State) : Keeps s (s.framerEvent e) := by
  have hok : s.Sound → (s.sp.step e).1.ok = true := fun hs => framer_step_ok s.sp e hs.framer
  unfold State.framerEvent
  dsimp only
  split
  case h_1 o fs ho hfs =>
    rcases unwind_cases fs (resOf .packet o) { s with sp := (s.sp.step e).1 } with ⟨-, fs', u, hu, h⟩ | ⟨r, u, hu, h⟩ <;>
      rw [h]
    · exact hu.keeps_armed fs'
    · have hsp : u.sp = (s.sp.step e).1 := hu.sp_reports.1
      refine hosted_keeps hu fun hs => hsp ▸ ⟨hok hs, ?_⟩
      have hst : s.sp.st ≠ .idle := hs.task.mp (by simp [hfs])
      simpa using (framer_step_outcome s.sp e hst).mp (by simp [ho])
  case h_2 hnone =>
    have h' := hosted_keeps (s := s) (f := s.sp) (g := (s.sp.step e).1) (k := s.task) (rs := []) (.refl s) fun hs =>
      ⟨hok hs, ?_⟩
    · rwa [List.append_nil] at h'
    · by_cases hst : s.sp.st = .idle
      · rw [framer_step_idle _ _ hst]; exact hs.task
      · obtain ⟨fs, hfs⟩ := Option.isSome_iff_exists.mp (hs.task.mpr hst)
        have hout : (s.sp.step e).2.isSome = false := by
          cases ho : (s.sp.step e).2 with
          | none => rfl
          | some o => exact (hnone o fs ho hfs).elim
        have hst' := (framer_step_outcome s.sp e hst).not.mp (by simp [hout])
        simp [hfs, hst']

theorem framerEvent_rx (e : ChanEvent) (s : State) : (s.framerEvent e).chan.rx = s.chan.rx := by
  unfold State.framerEvent
  dsimp only
  split
  case h_1 o fs _ _ =>
    rcases unwind_cases fs (resOf .packet o) { s with sp := (s.sp.step e).1 } with
      ⟨-, fs', u, ⟨_, _, _, _, _, _, _, _, -, -, rfl⟩, h⟩ | ⟨r, u, ⟨_, _, _, _, _, _, _, _, -, -, rfl⟩, h⟩ <;> rw [h]
  case h_2 => rfl

/-- What the stream reader does to the buffer and its own waiting, with what it reports, keeps everything if it waits only
uncancelled and without a delimiter in the buffer. -/
theorem reader_keeps (s : State) (buf : Bytes) (cancel reading : Bool) (rs : List Report)
    (hc : s.mux.cancel = true → cancel = true)
    (h : s.Sound → reading = true → cancel = false ∧ Config.muxDelim ∉ buf) :
    Keeps s { s with mux := { s.mux with buf := buf, cancel := cancel }, reading := reading, reports := s.reports ++ rs } :=
  ⟨rfl, rfl, rfl, le_rfl, List.prefix_rfl, hc, List.prefix_rfl, List.prefix_append _ _,
    fun hs => ⟨hs.framer, hs.task, h hs, hs.subs, hs.legacy, hs.record, hs.params⟩⟩

/-- The poll keeps everything, whatever the buffer holds when it begins. -/
theorem readerPoll_keeps (s : State) (held : Bytes) :
    Keeps s (State.readerPoll { s with mux := { s.mux with buf := held } }) := by
  obtain ⟨buf, ⟨f, h⟩ | ⟨-, h⟩ | ⟨hc, hbuf, h⟩⟩ := readerPoll_cases { s with mux := { s.mux with buf := held } } <;> rw [h]
  · exact reader_keeps s buf s.mux.cancel false _ id (by simp)
  · exact reader_keeps s buf s.mux.cancel false _ id (by simp)
  · simpa using reader_keeps s buf s.mux.cancel true [] id fun _ _ => ⟨hc, hbuf⟩

theorem readerEvent_keeps (e : ChanEvent) (s : State) : Keeps s (s.readerEvent e) := by
  cases e with
  | byte b => exact readerPoll_keeps s _
  | timeout => exact .refl s
  | fail => exact reader_keeps s s.mux.buf true false _ (fun _ => rfl) (by simp)

/-- The event `cancel` ends a read that waits, so it leaves no read waiting. -/
theorem cancelEvent_keeps (s : State) : Keeps s s.cancelEvent := by
  unfold State.cancelEvent
  dsimp only
  split <;> rename_i hr
  · exact reader_keeps s s.mux.buf true false _ (fun _ => rfl) (by simp)
  · simpa using reader_keeps s s.mux.buf true s.reading [] (fun _ => rfl) (fun _ h => absurd h hr)

theorem takeEvent_keeps (e : Event) (s : State) : Keeps s (s.takeEvent e) := by
  cases e with
  | cancel => exact cancelEvent_keeps s
  | chan e =>
    unfold State.takeEvent
    dsimp only
    split
    · split
      · exact (arb_keeps _ s).trans (readerEvent_keeps e _)
      · exact (arb_keeps _ s).trans (framerEvent_keeps e _)
    · split
      · exact readerEvent_keeps e s
      · exact framerEvent_keeps e s

theorem drain_keeps (es : List Event) (s : State) : Keeps s (State.drain es s) := by
  induction es generalizing s with
  | nil => exact .refl s
  | cons e es ih =>
    unfold State.drain
    split
    · exact ((rx_keeps es s).trans (takeEvent_keeps e _)).trans (ih _)
    · exact .refl s

theorem settle_keeps (s : State) : Keeps s s.settle := drain_keeps _ s

theorem settle_settled (s : State) : s.settle.Settled := fun hw =>
  (settle_done s).resolve_left (by simp [hw])

/-! What an instruction answers. -/

/-- Every next state that `o` answers from `s` keeps what `s` has, and when `s` is sound and settled it is settled too. -/
def Answers (s : State) (o : Answer) : Prop :=
  ∀ t, o = .next t → Keeps s t ∧ (s.Sound → s.Settled → t.Settled)

theorem answers_refused (s : State) (r : Refusal) : Answers s (.refused r) := by rintro _ ⟨⟩

theorem answers_fault (s : State) (r : Fault) : Answers s (.fault r) := by rintro _ ⟨⟩

/-- An instruction after which the waiting operations go on. -/
theorem answers_settle {s t : State} (h : Keeps s t) : Answers s (.next t.settle) := by
  rintro _ ⟨⟩
  exact ⟨h.trans (settle_keeps t), fun _ _ => settle_settled t⟩

/-- An instruction that consumes no event and begins no wait. -/
theorem answers_at_once {s t : State} (h : Keeps s t) (hw : s.Sound → t.waiting = true → s.waiting = true)
    (hrx : t.chan.rx = s.chan.rx) : Answers s (.next t) := by
  rintro _ ⟨⟩
  exact ⟨h, fun hs hq ht => hrx ▸ hq (hw hs ht)⟩

theorem report_answers (c : Caller) (r : Res) (s : State) : Answers s (.next (s.report c r)) :=
  answers_at_once (report_keeps c r s) (fun _ => id) rfl

theorem writeOut_answers (c : Caller) (bytes : Bytes) (s : State) : Answers s (.next (s.writeOut c bytes)) := by
  have hw : ∀ tx ws r, Answers s
      (.next (State.report c r { s with chan := { s.chan with tx := s.chan.tx ++ tx, writes := ws } })) := fun tx ws r =>
    answers_at_once ((registers_keep s s.acc16 s.acc32 s.port s.chan.rx ws s.chan.arb tx).trans (report_keeps c r _))
      (fun _ => id) rfl
  unfold State.writeOut
  rcases chanWrite_cases bytes s with h | ⟨n, -, h⟩ <;> rw [h]
  · exact hw _ _ _
  · exact hw _ _ _

theorem arriveBytes_answers (bs : Bytes) (s : State) : Answers s (.next (s.arriveBytes bs)) := answers_settle (rx_keeps _ s)

/-- Bytes that a format can frame arrive; others are turned away. -/
theorem framed_answers (P : Prop) [Decidable P] (bs : Bytes) (s : State) :
    Answers s (if P then .next (s.arriveBytes bs) else .refused .unframable) := by
  split
  · exact arriveBytes_answers bs s
  · exact answers_refused s _

/-- A receiving operation is refused, or waits with the framer armed. -/
theorem receive_answers (fs : List Frame) (s : State) : Answers s (.next (s.receive fs)) := by
  unfold State.receive
  split
  · exact report_answers _ _ s
  · exact answers_settle ((Hosted.refl s).keeps_armed (f := s.sp) fs)

/-- A host operation waits with the framer armed, or its outcome goes to the owner. -/
theorem proceed_answers {s : State} {x : Flow} (h : FlowOf s x) : Answers s (.next (State.proceed x)) := by
  obtain ⟨-, fs, t, ht, rfl⟩ | ⟨r, t, ht, rfl⟩ := h
  · exact answers_settle (ht.keeps_armed (f := s.sp) fs)
  · refine answers_at_once (ht.keeps.trans (report_keeps _ r t)) ?_ ?_ <;>
      obtain ⟨_, _, _, _, _, _, _, _, -, -, rfl⟩ := ht
    · exact fun _ => id
    · rfl

theorem perform_answers (op : HostOp) (s : State) : Answers s (s.perform op) := by
  unfold State.perform
  split
  · exact answers_refused s _
  · exact proceed_answers (launch_cases op [] s)

theorem execRetry_answers (op : HostOp) (policy : RetryPolicy) (s : State) : Answers s (execRetry op policy s) := by
  unfold execRetry
  split
  · exact answers_refused s _
  · split
    · exact answers_refused s _
    · exact proceed_answers (attempts_cases op policy _ _ s)

/-- In a sound state the framer that takes an event by hand is one that an operation waits for, so the channel was empty. -/
theorem execSpStep_answers (e : ChanEvent) (s : State) : Answers s (execSpStep e s) := by
  unfold execSpStep
  split <;> rename_i hst
  · exact answers_fault s _
  · refine answers_at_once ((report_keeps _ _ s).trans (framerEvent_keeps e _)) (fun hs _ => ?_) ?_
    · simp [State.waiting, State.framing, hs.task.mpr hst, hst]
    · rw [framerEvent_rx]; rfl

theorem execMuxRead_answers (s : State) : Answers s (execMuxRead s) := by
  unfold execMuxRead
  split
  · exact answers_refused s _
  · exact answers_settle (readerPoll_keeps s s.mux.buf)

theorem execMuxCancel_answers (s : State) : Answers s (execMuxCancel s) := by
  refine answers_at_once (cancelEvent_keeps s) (fun _ => ?_) ?_ <;> unfold State.cancelEvent <;> dsimp only <;> split
  · intro h; simp_all [State.waiting, State.framing]
  · exact id
  · rfl
  · rfl

/-- Writing the subscription set or the promiscuous flag. -/
theorem muxControl_answers (subs : List Topic) (promisc : Bool) (s : State) (h : rising s.mux.subs = true → rising subs = true) :
    Answers s (.next (State.ret .reader .unit { s with mux := { s.mux with subs := subs, promisc := promisc } })) := by
  refine answers_at_once (.trans ?_ (report_keeps _ _ _)) (fun _ => id) rfl
  exact ⟨rfl, rfl, rfl, le_rfl, List.prefix_rfl, id, List.prefix_rfl, List.prefix_rfl,
    fun hs => ⟨hs.framer, hs.task, hs.reader, h hs.subs, hs.legacy, hs.record, hs.params⟩⟩

/-- A checksum is stored in a working register or not, and reported. -/
theorem checksum_answers (a : BitVec 16) (b : BitVec 32) (v : Value) (s : State) :
    Answers s (.next (State.ret .owner v { s with acc16 := a, acc32 := b })) := by
  refine answers_at_once (.trans ?_ (report_keeps _ _ _)) (fun _ => id) rfl
  simpa using registers_keep s a b s.port s.chan.rx s.chan.writes s.chan.arb []

/-- What every instruction keeps. -/
theorem exec_answers (i : Instr) (s : State) : Answers s (exec i s) := by
  cases i
  case crcUpd w t acc b =>
    unfold exec execCrcUpd
    dsimp only
    split
    · exact answers_refused s _
    · exact report_answers _ _ s
  case crcCompute w t bs init =>
    unfold exec execCrcCompute State.storeAcc
    dsimp only
    split
    · exact answers_refused s _
    · split
      · exact checksum_answers _ s.acc32 _ s
      · split
        · exact checksum_answers s.acc16 _ _ s
        · exact report_answers _ _ s
  case crc16Compute bs init => exact checksum_answers _ s.acc32 _ s
  case crc32Compute bs init => exact checksum_answers s.acc16 _ _ s
  case spRx | extRx => exact receive_answers _ s
  case spStep e => exact execSpStep_answers e s
  case muxSub t =>
    unfold exec execMuxSub
    dsimp only
    split
    · exact muxControl_answers _ s.mux.promisc s (insertTopic_rising _ _)
    · exact report_answers _ _ s
  case muxUnsub t =>
    unfold exec execMuxUnsub
    dsimp only
    split
    · exact muxControl_answers _ s.mux.promisc s (removeTopic_rising _ _)
    · exact report_answers _ _ s
  case muxPromisc v => exact muxControl_answers s.mux.subs v s id
  case muxRead => exact execMuxRead_answers s
  case muxCancel => exact execMuxCancel_answers s
  case muxWrite | fSptxHeader => exact writeOut_answers _ _ s
  case fExtTx sub payload =>
    unfold exec execFExtTx
    dsimp only
    split
    · exact writeOut_answers _ _ s
    · exact report_answers _ _ s
  case fExtRx sub payload =>
    unfold exec execFExtRx
    dsimp only
    split
    · exact arriveBytes_answers _ s
    · exact answers_refused s _
  case fSprxShort | fSprxLong | fCobsBlock => exact framed_answers _ _ s
  case fMuxDelim | fMuxFrame | cmdExt => exact arriveBytes_answers _ s
  case retry op policy => exact execRetry_answers op policy s
  case extXchg sub payload c | subOther sub payload c => exact perform_answers (.xchg sub payload c) s
  case ftInit | ftWrite | ftRead | ftComplete | ftUpload | ftDownload | subFtInit | subFtComplete | subFtWrite |
      subFtRead | subFtSetLink | subDirCount | subDirEntry | subExecFile | subFileMetaGet | subFileMetaSet | subFileErase |
      subSlotGet | subSysStatus | subScreenCapInit => exact perform_answers _ s
  all_goals exact report_answers _ _ s

/-! The step. -/

/-- Where a next state comes from: the reset, the waiting operations, or the instruction at the port. -/
theorem step_next_cases {s t : State} (h : step s = .next t) :
    (s.resetAsked = true ∧ t = s.blockReset) ∨ (s.resetAsked = false ∧ (t = s.settle ∨
      ∃ i rest, decode s.params s.port = .ok (i, rest) ∧ exec i { s with port := rest } = .next t)) := by
  unfold step at h
  split at h
  · cases h
  · split at h <;> rename_i hr
    · cases h; exact .inl ⟨hr, rfl⟩
    · refine .inr ⟨by simpa using hr, ?_⟩
      split at h
      · cases h; exact .inl rfl
      · unfold fetch at h
        cases hd : decode s.params s.port with
        | ok r => rw [hd] at h; exact .inr ⟨r.1, r.2, rfl, h⟩
        | error e => rw [hd] at h; cases h

/-- A step is the block's reset, or it keeps what the state has and leaves no event behind while an operation waits. -/
theorem step_keeps {s t : State} (h : step s = .next t) :
    (s.resetAsked = true ∧ t = s.blockReset) ∨
      (s.resetAsked = false ∧ Keeps s t ∧ (s.Sound → s.Settled → t.Settled)) := by
  rcases step_next_cases h with hreset | ⟨hr, rfl | ⟨i, rest, -, he⟩⟩
  · exact .inl hreset
  · exact .inr ⟨hr, settle_keeps s, fun _ _ => settle_settled s⟩
  · have hport : Keeps s { s with port := rest } := by
      simpa using registers_keep s s.acc16 s.acc32 rest s.chan.rx s.chan.writes s.chan.arb []
    obtain ⟨hkeeps, hsettled⟩ := exec_answers i { s with port := rest } t he
    exact .inr ⟨hr, hport.trans hkeeps, fun hs => hsettled (hport.sound hs)⟩

/-- After the block's reset nothing waits, and the host's record is the one it was. -/
theorem blockReset_inv (s : State) (h : s.inv = true) : s.blockReset.inv = true := by
  have hs := ((inv_iff s).mp h).1
  exact (inv_iff _).mpr ⟨⟨rfl, by simp [State.blockReset, Framer.reset], nofun, rfl, hs.legacy, hs.record, hs.params⟩, nofun⟩

/-- Settles O58: the block's reset gives the registers values that agree, and every other step keeps soundness and consumes
the events for which an operation waits. -/
theorem everyStepKeepsTheInvariant : Obligations.EveryStepKeepsTheInvariant := by
  intro s t hinv h
  obtain ⟨-, rfl⟩ | ⟨-, hkeeps, hset⟩ := step_keeps h
  · exact blockReset_inv s hinv
  · obtain ⟨hsound, hsettled⟩ := (inv_iff s).mp hinv
    exact (inv_iff t).mpr ⟨hkeeps.sound hsound, hset hsound hsettled⟩

/-- Settles O59: the block's reset takes back the cancel flag alone, and no other step takes anything back. -/
theorem noStepTakesBack : Obligations.NoStepTakesBack := by
  intro s t h
  obtain ⟨hasked, rfl⟩ | ⟨-, k, -⟩ := step_keeps h
  · exact ⟨rfl, rfl, rfl, le_rfl, List.prefix_rfl, fun _ => .inr hasked, List.prefix_rfl, List.prefix_rfl⟩
  · exact ⟨k.params, k.device, k.alive, k.rank, k.commands, fun hc => .inl (k.cancel hc), k.tx, k.reports⟩

/-! The steps that carry out no instruction. -/

theorem step_of_reset (s : State) (ha : s.chan.alive = true) (hr : s.resetAsked = true) : step s = .next s.blockReset := by
  simp [step, ha, hr]

theorem step_of_empty_port (s : State) (ha : s.chan.alive = true) (hr : s.resetAsked = false) (hp : s.port = []) :
    step s = .next s.settle := by
  simp [step, ha, hr, hp]

/-- Settles O53: `step` takes its branches in the order destroyed channel, reset, empty port, decoder's error. -/
theorem stepWithoutAnInstruction : Obligations.StepWithoutAnInstruction := by
  refine ⟨fun s ha hr => ⟨Framer.reset, rfl, rfl, step_of_reset s ha hr, fun t ht => ?_⟩, fun s ha hr hp hw => ?_,
    fun s ha hr hp => ⟨s.settle, step_of_empty_port s ha hr hp, settle_done s⟩, fun s e ha hr hp he => ?_, fun s ha => ?_⟩
  · rw [step_of_reset s ha hr] at ht
    cases ht
    rfl
  · rw [step_of_empty_port s ha hr hp, settle_of_not_waiting s hw]
  · simp [step, ha, hr, hp, fetch, he]
  · simp [step, ha]

end Sys2Proof.Machine
end

section
/-! The bytes of a packet, as the framer, the decoders and the stream reader take them: the length field, the checksum of a
packet with its trailer, the reply round trip, byte stuffing. -/

namespace Sys2Proof.Machine

/-! The two-byte length (30_encoding R65, R66). -/

theorem lenTwo_toNat (b0 b1 : Byte) : (lenTwo b0 b1).toNat = b0.toNat % 128 * 256 + b1.toNat := by
  have h0 : (b0 &&& 0x7F).toNat = b0.toNat % 128 := by
    rw [BitVec.toNat_and]; exact Nat.and_two_pow_sub_one_eq_mod b0.toNat 7
  have hlow := b1.isLt
  have hhigh : (lenHigh b0).toNat = 2 ^ 8 * (b0.toNat % 128) := by
    rw [lenHigh, BitVec.toNat_shiftLeft, BitVec.toNat_setWidth, h0, Nat.shiftLeft_eq]
    omega
  rw [lenTwo, BitVec.toNat_or, hhigh, BitVec.toNat_setWidth, Nat.mod_eq_of_lt (hlow.trans (by decide)),
    ← Nat.two_pow_add_eq_or_of_lt hlow]
  omega

/-- The first byte of a two-byte length, as the encoders write it. -/
theorem lenFirst_eq (n : Nat) (h : n ≤ 32767) :
    ((128 : Nat) : Byte) ||| BitVec.ofNat 8 (n >>> 8) = BitVec.ofNat 8 (128 + n / 256) := by
  have hlt : n / 256 < 2 ^ 7 := by omega
  apply BitVec.eq_of_toNat_eq
  rw [BitVec.toNat_or, BitVec.toNat_ofNat, BitVec.toNat_ofNat, Nat.shiftRight_eq_div_pow, Nat.mod_eq_of_lt (by omega),
    Nat.mod_eq_of_lt (by omega)]
  exact (Nat.two_pow_add_eq_or_of_lt hlt 1).symm

theorem continues_iff (b : Byte) : continues b = true ↔ 128 ≤ b.toNat := by
  simp [continues, BitVec.msb_eq_decide]

theorem continues_short {n : Nat} (h : n < 128) : continues (BitVec.ofNat 8 n) = false := by
  rw [← Bool.not_eq_true, continues_iff, BitVec.toNat_ofNat]
  omega

theorem continues_long {n : Nat} (h : n ≤ 32767) : continues (BitVec.ofNat 8 (128 + n / 256)) = true := by
  rw [continues_iff, BitVec.toNat_ofNat]
  omega

theorem lenTwo_encoded {n : Nat} (h : n ≤ 32767) :
    (lenTwo (BitVec.ofNat 8 (128 + n / 256)) (BitVec.ofNat 8 (n % 256))).toNat = n := by
  rw [lenTwo_toNat, BitVec.toNat_ofNat, BitVec.toNat_ofNat]
  omega

/-- The length field of a length that has one: one byte below 128, two from there on (42_extended_packet R121). -/
theorem extLenEnc_cases {n : Nat} (h : n ≤ 32767) :
    (n < 128 ∧ extLenEnc n = .ok [BitVec.ofNat 8 n]) ∨
      (128 ≤ n ∧ extLenEnc n = .ok [BitVec.ofNat 8 (128 + n / 256), BitVec.ofNat 8 (n % 256)]) := by
  unfold extLenEnc
  rw [if_neg (show ¬ n > Config.extLenMax from not_lt.mpr h)]
  by_cases hlt : n < 128
  · exact .inl ⟨hlt, if_pos hlt⟩
  · have hlow : n &&& 0xFF = n % 256 := Nat.and_two_pow_sub_one_eq_mod n 8
    refine .inr ⟨not_lt.mp hlt, ?_⟩
    rw [if_neg (show ¬ n < Config.extLenThreshold from hlt), ← lenFirst_eq n h, hlow]

theorem extLenEnc_le {n : Nat} {enc : Bytes} (h : extLenEnc n = .ok enc) : n ≤ 32767 := by
  by_contra hn
  rw [extLenEnc, if_pos (show n > Config.extLenMax from not_le.mp hn)] at h
  cases h

/-- Decoding a length field gives the length it was made of and the field's size (42_extended_packet R122). -/
theorem extLenDec_extLenEnc {n : Nat} {enc : Bytes} (h : extLenEnc n = .ok enc) (rest : Bytes) :
    extLenDec (enc ++ rest) = .ok (n, enc.length) := by
  have hn := extLenEnc_le h
  obtain ⟨hlt, h'⟩ | ⟨-, h'⟩ := extLenEnc_cases hn <;> rw [h'] at h <;> cases h
  · have hb : (BitVec.ofNat 8 n).toNat = n := by rw [BitVec.toNat_ofNat]; omega
    simp [extLenDec, continues_short hlt, hb]
  · simp [extLenDec, continues_long hn, lenTwo_encoded hn]

/-! The checksum of a sequence followed by its own checksum (40_crc R93). -/

theorem crcShift_zero {W : Nat} (P : BitVec W) : crcShift P 0 = 0 := by simp [crcShift]

theorem crcEntry_zero {W : Nat} (P : BitVec W) : crcEntry P 0 = 0 := by
  have hzero : ((0 : Byte).setWidth W <<< (W - 8)) = 0 := by simp
  rw [crcEntry, hzero]
  simp only [Nat.repeat, crcShift_zero]

theorem crcTable_zero {W : Nat} (P : BitVec W) : (crcTable P).getD 0 0 = 0 := by
  have h : crcEntry P (BitVec.ofNat 8 0) = 0 := crcEntry_zero P
  simp [crcTable, h]

/-- A byte equal to the accumulator's highest one shifts it out. -/
theorem crcUpd_top {W : Nat} (P acc : BitVec W) : crcUpd (crcTable P) acc ((acc >>> (W - 8)).setWidth 8) = acc <<< 8 := by
  have h := crcTable_zero P
  simp only [crcUpd, BitVec.xor_self, BitVec.toNat_zero]
  rw [h]; exact BitVec.xor_zero

/-- A packet with its trailer has CRC-16 zero (42_extended_packet R128). -/
theorem crc16_withTrailer (bytes : Bytes) : crc16 (withTrailer bytes) 0 = 0 := by
  have hshift := crcUpd_top (BitVec.ofNat 16 Config.crc16Poly)
  have hlow : ∀ c : BitVec 16, c.setWidth 8 = ((c <<< 8) >>> 8).setWidth 8 := fun c => by bv_omega
  have hout : ∀ c : BitVec 16, (c <<< 8) <<< 8 = 0 := fun c => by bv_omega
  unfold withTrailer crc16 crcCompute trailer
  rw [List.foldl_append]
  generalize List.foldl (crcUpd T16) 0 bytes = c
  calc crcUpd T16 (crcUpd T16 c ((c >>> 8).setWidth 8)) (c.setWidth 8)
      = crcUpd T16 (c <<< 8) (c.setWidth 8) := congrArg (crcUpd T16 · _) (hshift c)
    _ = crcUpd T16 (c <<< 8) (((c <<< 8) >>> 8).setWidth 8) := congrArg _ (hlow c)
    _ = (c <<< 8) <<< 8 := hshift _
    _ = 0 := hout c

/-! The reply that a device builds, and its decoding (42_extended_packet R124, R127). -/

/-- The body of a reply: the sub-command, the inner length field if there is one, the payload. -/
theorem replyBody_cases {p : Params} {sub : Byte} {payload body : Bytes} (h : replyBody p sub payload = .ok body) :
    (p.innerLen = true ∧ ∃ enc, extLenEnc payload.length = .ok enc ∧ 1 ≤ enc.length ∧ enc.length ≤ 2 ∧
      body = sub :: (enc ++ payload)) ∨ (p.innerLen = false ∧ body = sub :: payload) := by
  unfold replyBody at h
  split at h <;> rename_i hp
  · refine .inl ⟨hp, ?_⟩
    split at h
    · cases h
    · rename_i enc henc
      cases h
      refine ⟨enc, henc, ?_⟩
      obtain ⟨-, h'⟩ | ⟨-, h'⟩ := extLenEnc_cases (extLenEnc_le henc) <;> rw [h'] at henc <;> cases henc <;> simp
  · cases h
    exact .inr ⟨by simpa using hp, rfl⟩

/-- A payload that a reply can carry has a body, and the outer length field has room for it. -/
theorem replyBody_of_length {p : Params} (sub : Byte) {payload : Bytes}
    (h : payload.length ≤ if p.innerLen then 32762 else 32764) :
    ∃ body, replyBody p sub payload = .ok body ∧ body.length + 2 ≤ 32767 := by
  unfold replyBody
  cases hp : p.innerLen <;> simp only [hp, if_true, Bool.false_eq_true, if_false] at h ⊢
  · exact ⟨_, rfl, by simp; omega⟩
  · obtain ⟨-, h'⟩ | ⟨-, h'⟩ := extLenEnc_cases (n := payload.length) (by omega) <;> rw [h']
    · exact ⟨_, rfl, by simp; omega⟩
    · exact ⟨_, rfl, by simp; omega⟩

/-- The inner part of a body with its trailer is the payload that the body was made of. -/
theorem extInner_replyBody {p : Params} {sub : Byte} {payload body : Bytes} (h : replyBody p sub payload = .ok body)
    (t0 t1 : Byte) : minBody p ≤ (body ++ [t0, t1]).length ∧ (body ++ [t0, t1]).headD 0 = sub ∧
      extInner p (body ++ [t0, t1]) = .ok payload := by
  obtain ⟨hp, enc, henc, hone, -, rfl⟩ | ⟨hp, rfl⟩ := replyBody_cases h
  · have hdec := extLenDec_extLenEnc henc (payload ++ [t0, t1])
    have hlen : 1 + enc.length + payload.length + 2 = (sub :: (enc ++ payload) ++ [t0, t1]).length := by simp; omega
    refine ⟨by simp [minBody, hp]; omega, rfl, ?_⟩
    simp only [extInner, hp, if_true, List.cons_append, List.drop_succ_cons, List.drop_zero, List.append_assoc, hdec]
    simp [Nat.add_comm 1]
    omega
  · exact ⟨by simp [minBody, hp], rfl, by simp [extInner, hp]⟩

/-- The ACK test takes the acknowledgment byte off the payload that the switches ask for. -/
theorem extAck_acked {p : Params} (hack : (nackOfByte p.ackByte).isNone) (c : Checks) (d : Bytes) :
    extAck p c (acked p c d) = .ok d := by
  have hnone : nackOfByte p.ackByte = none := Option.isNone_iff_eq_none.mp hack
  cases hc : c.ack <;> simp [extAck, acked, hc, ackDecode, hnone]

/-- A packet with a reply's body decodes to the reply's data. -/
theorem extDecode_reply {p : Params} {pk : Packet} {sub t0 t1 : Byte} {c : Checks} {d body : Bytes}
    (hcmd : pk.cmd = Config.extCmd) (hcrc : crc16 pk.raw 0 = 0) (hpayload : pk.payload = body ++ [t0, t1])
    (hack : (nackOfByte p.ackByte).isNone) (hbody : replyBody p sub (acked p c d) = .ok body)
    (hlen : c.len = true → d.length = c.expectedLen) : extDecode p pk sub c = .ok d := by
  obtain ⟨hmin, hsub, hinner⟩ := extInner_replyBody hbody t0 t1
  rw [← hpayload] at hmin hsub hinner
  have hexact : extExact c d = .ok d := if_neg fun h => h.2 (hlen h.1)
  have hzero : crcZero pk.raw = true := by rw [crcZero, hcrc]; rfl
  simp only [extDecode, hcmd, hzero, hsub, hinner, extAck_acked hack, hexact, ne_eq, not_true, if_false,
    Bool.true_eq_false, if_neg (not_lt.mpr hmin)]

/-- The record of a reply with this outer length field, of `hlen - 3` bytes, and this body (42_extended_packet R127). -/
def replyPacket (hlen : Nat) (outer body : Bytes) : Packet :=
  ⟨Config.extCmd, body ++ trailer (crc16 ([0xAA, 0x55, 0x56] ++ outer ++ body) 0),
    withTrailer ([0xAA, 0x55, 0x56] ++ outer ++ body), hlen⟩

theorem replyPacket_raw (hlen : Nat) (outer body : Bytes) :
    (replyPacket hlen outer body).raw = [0xAA, 0x55, 0x56] ++ outer ++ (replyPacket hlen outer body).payload :=
  List.append_assoc _ body _

theorem replyPacket_length (hlen : Nat) (outer body : Bytes) :
    (replyPacket hlen outer body).payload.length = body.length + 2 := by simp [replyPacket, trailer]

theorem extReply_eq {p : Params} {sub : Byte} {payload outer body : Bytes} (hbody : replyBody p sub payload = .ok body)
    (henc : extLenEnc (body.length + 2) = .ok outer) (hlen : Nat) :
    extReply p sub payload = .ok (replyPacket hlen outer body).raw := by
  simp only [extReply, hbody, henc]
  rfl

/-- The reply's bytes are a simple packet of the reserved command, whose CRC-16 is zero and whose payload is the reply's body
and its trailer (42_extended_packet R127, R128). -/
theorem extReply_packet {p : Params} (sub : Byte) {payload : Bytes}
    (h : payload.length ≤ if p.innerLen then 32762 else 32764) :
    ∃ (pk : Packet) (body : Bytes) (t0 t1 : Byte), IsSprx pk ∧ extReply p sub payload = .ok pk.raw ∧
      pk.cmd = Config.extCmd ∧ crc16 pk.raw 0 = 0 ∧ pk.payload = body ++ [t0, t1] ∧ replyBody p sub payload = .ok body := by
  obtain ⟨body, hbody, hlen⟩ := replyBody_of_length sub h
  obtain ⟨hlt, henc⟩ | ⟨-, henc⟩ := extLenEnc_cases hlen
  · refine ⟨replyPacket 4 _ body, body, _, _, .inl ⟨?_, rfl, ?_⟩, extReply_eq hbody henc 4, rfl, crc16_withTrailer _, rfl, hbody⟩
    · rwa [replyPacket_length]
    · rw [replyPacket_raw, replyPacket_length]; rfl
  · refine ⟨replyPacket 5 _ body, body, _, _, .inr ⟨rfl, ?_, rfl, ?_⟩, extReply_eq hbody henc 5, rfl, crc16_withTrailer _, rfl,
      hbody⟩
    · rwa [replyPacket_length]
    · rw [replyPacket_raw, replyPacket_length]; rfl

/-! Byte stuffing (43_mux_stream R162 to R164). -/

/-- The segments of a sequence hold no zero byte, there is at least one, and with zeros between them they are the sequence. -/
theorem splitZeros_spec (d : Bytes) :
    splitZeros d ≠ [] ∧ (∀ s ∈ splitZeros d, (0 : Byte) ∉ s) ∧ [0].intercalate (splitZeros d) = d := by
  induction d with
  | nil => simp [splitZeros]
  | cons b bs ih =>
    obtain ⟨hne, hzero, hjoin⟩ := ih
    unfold splitZeros
    cases hs : splitZeros bs with
    | nil => exact absurd hs hne
    | cons s ss =>
      rw [hs] at hzero hjoin
      split <;> rename_i hb
      · subst hb
        exact ⟨by simp, by simpa using hzero, by simp [← hjoin, List.intercalate]⟩
      · refine ⟨by simp, ?_, ?_⟩
        · rw [List.forall_mem_cons] at hzero ⊢
          exact ⟨by simpa using ⟨Ne.symm hb, hzero.1⟩, hzero.2⟩
        · rw [← hjoin]
          cases ss <;> simp [List.intercalate]

/-- A segment of fewer than 254 bytes is one block. -/
theorem cobsSegment_short (last : Bool) {s : Bytes} (h : s.length < 254) :
    cobsSegment last s = BitVec.ofNat 8 (s.length + 1) :: s := by
  have hq : s.length / 254 = 0 := by omega
  have hr : s.length % 254 = s.length := by omega
  simp [cobsSegment, hq, hr]

/-- The last segment, of 254 bytes, is one block and no empty one after it. -/
theorem cobsSegment_full {s : Bytes} (h : s.length = 254) : cobsSegment true s = BitVec.ofNat 8 (s.length + 1) :: s := by
  have hne : s ≠ [] := List.ne_nil_of_length_pos (by omega)
  simp [cobsSegment, h, hne]

/-- A longer segment begins with a full block. -/
theorem cobsSegment_long {last : Bool} {data s : Bytes} (h : data.length = 254) (hlast : last = true → s ≠ []) :
    cobsSegment last (data ++ s) = BitVec.ofNat 8 (data.length + 1) :: (data ++ cobsSegment last s) := by
  have hq : (data ++ s).length / 254 = s.length / 254 + 1 := by rw [List.length_append]; omega
  have hr : (data ++ s).length % 254 = s.length % 254 := by rw [List.length_append]; omega
  have hdrop : ∀ k, (data ++ s).drop (254 * (k + 1)) = s.drop (254 * k) := fun k => by
    rw [Nat.mul_succ, Nat.add_comm, ← h, ← List.drop_drop, List.drop_left]
  have htake : (data ++ s).take 254 = data := by rw [← h, List.take_left]
  have htail : (last = true ∧ data ++ s ≠ [] ∧ s.length % 254 = 0) ↔ (last = true ∧ s ≠ [] ∧ s.length % 254 = 0) :=
    and_congr_right fun hl => and_congr_left fun _ => iff_of_true (by simp [hlast hl]) (hlast hl)
  simp only [cobsSegment, hq, hr, htail, hdrop, htake, List.range_succ_eq_map, List.flatMap_cons, List.flatMap_map, Nat.mul_zero,
    List.drop_zero, List.cons_append, List.append_assoc, h]
  rfl

/-- A segment is one block, or a full block in front of a segment. -/
theorem segment_induction {last : Bool} {P : Bytes → Prop} (short : ∀ s, s.length < 254 → P s)
    (full : ∀ s, last = true → s.length = 254 → P s)
    (long : ∀ data s, data.length = 254 → (last = true → s ≠ []) → P s → P (data ++ s)) (s : Bytes) : P s := by
  induction hn : s.length using Nat.strong_induction_on generalizing s with
  | _ n ih =>
    by_cases hshort : s.length < 254
    · exact short s hshort
    · by_cases hfull : last = true ∧ s.length = 254
      · exact full s hfull.1 hfull.2
      · rw [← List.take_append_drop 254 s]
        refine long _ _ (by rw [List.length_take]; omega) (fun hl => ?_) (ih _ ?_ _ rfl)
        · have hne : s.length ≠ 254 := fun h254 => hfull ⟨hl, h254⟩
          exact List.ne_nil_of_length_pos (by rw [List.length_drop]; omega)
        · rw [List.length_drop]; omega

/-- What one block of a frame decodes to: its data, and a zero unless it is full or the frame's last. -/
theorem cobsLoop_block {fuel : Nat} {data rest : Bytes} (hlen : data.length ≤ 254) (h : (0 : Byte) ∉ data) (out : Bytes) :
    cobsLoop (fuel + 1) out (BitVec.ofNat 8 (data.length + 1) :: (data ++ rest)) =
      cobsLoop fuel (if data.length ≠ 254 ∧ rest ≠ [] then out ++ data ++ [0] else out ++ data) rest := by
  have hn : (BitVec.ofNat 8 (data.length + 1)).toNat - 1 = data.length := by rw [BitVec.toNat_ofNat]; omega
  have hzero : BitVec.ofNat 8 (data.length + 1) ≠ 0 := fun h0 => by
    have := congrArg BitVec.toNat h0
    simp at this
    omega
  have hfull : BitVec.ofNat 8 (data.length + 1) ≠ 0xFF ↔ data.length ≠ 254 := by
    rw [not_iff_not, ← BitVec.toNat_inj, BitVec.toNat_ofNat]
    simp
    omega
  simp only [cobsLoop, hn, hfull, List.take_left, List.drop_left]
  rw [if_neg hzero, if_neg (by simp), if_neg (by simpa using h)]

/-- Decoding the blocks `w`, however much fuel there is, goes on after them with `d` put out. -/
def Unstuffs (w rest d : Bytes) : Prop :=
  ∀ fuel out, (w ++ rest).length ≤ fuel →
    ∃ fuel', rest.length ≤ fuel' ∧ cobsLoop fuel out (w ++ rest) = cobsLoop fuel' (out ++ d) rest

theorem unstuffs_block {data rest : Bytes} (hlen : data.length ≤ 254) (h : (0 : Byte) ∉ data) :
    Unstuffs (BitVec.ofNat 8 (data.length + 1) :: data) rest
      (data ++ if data.length ≠ 254 ∧ rest ≠ [] then [0] else []) := by
  intro fuel out hfuel
  cases fuel with
  | zero => simp at hfuel
  | succ fuel =>
    refine ⟨fuel, by simp at hfuel; omega, ?_⟩
    rw [List.cons_append, cobsLoop_block hlen h]
    split <;> simp

theorem Unstuffs.append {w v rest d e : Bytes} (h : Unstuffs w (v ++ rest) d) (k : Unstuffs v rest e) :
    Unstuffs (w ++ v) rest (d ++ e) := by
  intro fuel out hfuel
  rw [List.append_assoc] at hfuel ⊢
  obtain ⟨fuel', hle, h'⟩ := h fuel out hfuel
  obtain ⟨fuel'', hle', k'⟩ := k fuel' (out ++ d) hle
  exact ⟨fuel'', hle', by rw [h', k', List.append_assoc]⟩

/-- What a segment of a frame decodes to: its bytes, and a zero unless it is the frame's last. -/
theorem unstuffs_segment {last : Bool} {rest : Bytes} (hlast : last = true ↔ rest = []) (s : Bytes) (h : (0 : Byte) ∉ s) :
    Unstuffs (cobsSegment last s) rest (s ++ if last then [] else [0]) := by
  induction s using segment_induction (last := last) with
  | short s hlen =>
    rw [cobsSegment_short last hlen]
    have hb := unstuffs_block (rest := rest) hlen.le h
    cases last <;> simp_all [hlen.ne]
  | full s hl hlen =>
    subst hl
    rw [cobsSegment_full hlen]
    simpa [hlen] using unstuffs_block (rest := rest) hlen.le h
  | long data s hlen hne ih =>
    rw [List.mem_append, not_or] at h
    rw [cobsSegment_long hlen hne, ← List.cons_append, List.append_assoc]
    refine .append ?_ (ih h.2)
    simpa [hlen] using unstuffs_block (rest := cobsSegment last s ++ rest) hlen.le h.1

theorem cobsSegment_ne_nil (last : Bool) (s : Bytes) : cobsSegment last s ≠ [] := by
  induction s using segment_induction (last := last) with
  | short s hlen => simp [cobsSegment_short last hlen]
  | full s hl hlen => simp [hl, cobsSegment_full hlen]
  | long data s hlen hne => simp [cobsSegment_long hlen hne]

theorem cobsSegments_ne_nil (s : Bytes) (ss : List Bytes) : cobsSegments (s :: ss) ≠ [] := by
  cases ss with
  | nil => exact cobsSegment_ne_nil true s
  | cons t ts => exact List.append_ne_nil_of_left_ne_nil (cobsSegment_ne_nil false s) _

/-- What a frame decodes to: its segments with a zero between them. -/
theorem unstuffs_segments (segs : List Bytes) (h : ∀ s ∈ segs, (0 : Byte) ∉ s) :
    Unstuffs (cobsSegments segs) [] ([0].intercalate segs) := by
  induction segs with
  | nil => exact fun fuel out _ => ⟨fuel, Nat.zero_le _, by simp [cobsSegments, List.intercalate]⟩
  | cons s ss ih =>
    obtain ⟨hs, hss⟩ := List.forall_mem_cons.mp h
    cases ss with
    | nil => simpa [cobsSegments, List.intercalate] using unstuffs_segment (last := true) (rest := []) (by simp) s hs
    | cons t ts =>
      have hlast : false = true ↔ cobsSegments (t :: ts) ++ [] = [] := by simpa using cobsSegments_ne_nil t ts
      simpa [cobsSegments, List.intercalate] using (unstuffs_segment hlast s hs).append (ih hss)

/-- `COBS.DECODE` undoes `COBS.ENCODE` (43_mux_stream R164 a). -/
theorem cobsDecode_cobsEncode (d : Bytes) : cobsDecode (cobsEncode d) = some d := by
  obtain ⟨-, hzero, hjoin⟩ := splitZeros_spec d
  obtain ⟨fuel, -, h⟩ := unstuffs_segments (splitZeros d) hzero (cobsEncode d).length [] (by rw [List.append_nil]; rfl)
  rw [List.append_nil, hjoin] at h
  refine h.trans ?_
  cases fuel <;> rfl

/-- No block of a segment without zeros has one. -/
theorem zero_notMem_cobsSegment (last : Bool) {s : Bytes} (h : (0 : Byte) ∉ s) : (0 : Byte) ∉ cobsSegment last s := by
  have hcode : BitVec.ofNat 8 (s.length % 254 + 1) ≠ 0 := fun h0 => by
    have := congrArg BitVec.toNat h0
    simp at this
    omega
  unfold cobsSegment
  dsimp only
  rw [List.mem_append, List.mem_flatMap]
  rintro (⟨k, -, hk⟩ | hk)
  · rcases List.mem_cons.mp hk with hk | hk
    · cases hk
    · exact h (List.mem_of_mem_drop (List.mem_of_mem_take hk))
  · split at hk
    · cases hk
    · rcases List.mem_cons.mp hk with hk | hk
      · exact hcode hk.symm
      · exact h (List.mem_of_mem_drop hk)

theorem zero_notMem_cobsSegments (segs : List Bytes) (h : ∀ s ∈ segs, (0 : Byte) ∉ s) : (0 : Byte) ∉ cobsSegments segs := by
  induction segs with
  | nil => simp [cobsSegments]
  | cons s ss ih =>
    obtain ⟨hs, hss⟩ := List.forall_mem_cons.mp h
    cases ss with
    | nil => exact zero_notMem_cobsSegment true hs
    | cons t ts =>
      exact fun hm => (List.mem_append.mp hm).elim (zero_notMem_cobsSegment false hs) (ih hss)

/-- A stuffed frame holds no delimiter (43_mux_stream R163). -/
theorem zero_notMem_cobsEncode (d : Bytes) : (0 : Byte) ∉ cobsEncode d :=
  zero_notMem_cobsSegments _ (splitZeros_spec d).2.1

/-- The raw frame of a topic and a payload is read as them. -/
theorem frameOfRaw_cobsEncode (t : Topic) (payload : Bytes) :
    frameOfRaw (cobsEncode (t.bytes ++ payload)) = some (t, payload) := by
  rw [frameOfRaw, cobsDecode_cobsEncode]
  rfl

end Sys2Proof.Machine
end

section
/-! Packets and frames that arrive while an operation waits (O37): the framer and the stream reader over a run of bytes. -/

namespace Sys2Proof.Machine

/-! The framer over a run of bytes. -/

/-- The framer's steps on bytes (41_simple_packet R118), up to the first outcome: the framer then, the outcome if there is one,
and the bytes not taken. -/
def Framer.feed (f : Framer) : Bytes → Framer × FramerOutcome × Bytes
  | [] => (f, none, [])
  | b :: bs =>
    match f.step (.byte b) with
    | (g, some o) => (g, some o, bs)
    | (g, none) => g.feed bs

theorem feed_of_outcome {f g : Framer} {b : Byte} {o : Except Err Packet} (h : f.step (.byte b) = (g, some o)) (bs : Bytes) :
    f.feed (b :: bs) = (g, some o, bs) := by
  rw [Framer.feed, h]

theorem feed_of_none {f g : Framer} {b : Byte} (h : f.step (.byte b) = (g, none)) (bs : Bytes) :
    f.feed (b :: bs) = g.feed bs := by
  rw [Framer.feed, h]

/-- The sync and the command, from the start of the search (41_simple_packet R104 to R106). -/
theorem feed_header {f : Framer} (hst : f.st = .hunt0) (cmd : Byte) (bs : Bytes) :
    f.feed (0xAA :: 0x55 :: cmd :: bs) = Framer.feed { f with st := .len0, cmd := cmd, raw := [0xAA, 0x55, cmd] } bs := by
  obtain ⟨st, _, _, _, _, _⟩ := f
  subst hst
  rfl

/-- A length field of one byte (41_simple_packet R107). -/
theorem step_len0_one {f : Framer} {b : Byte} (hst : f.st = .len0) (h : twoLengthBytes f.cmd b = false) :
    f.step (.byte b) =
      Framer.startPayload { f with raw := f.raw ++ [b], len := b.setWidth 15, hlen := 4, cnt := 0 } := by
  rw [Framer.step, if_neg (by simp [hst])]
  simp only [Framer.onByte, hst, h, Bool.false_eq_true, if_false]

/-- The first byte of a length field of two (41_simple_packet R107). -/
theorem step_len0_two {f : Framer} {b : Byte} (hst : f.st = .len0) (h : twoLengthBytes f.cmd b = true) :
    f.step (.byte b) = ({ f with raw := f.raw ++ [b], len := lenHigh b, st := .len1 }, none) := by
  rw [Framer.step, if_neg (by simp [hst])]
  simp only [Framer.onByte, hst, h, if_true]

/-- The second byte of a length field of two (41_simple_packet R108). -/
theorem step_len1 {f : Framer} (hst : f.st = .len1) (b : Byte) :
    f.step (.byte b) =
      Framer.startPayload { f with raw := f.raw ++ [b], len := f.len ||| b.setWidth 15, hlen := 5, cnt := 0 } := by
  rw [Framer.step, if_neg (by simp [hst])]
  simp only [Framer.onByte, hst]

/-- A payload byte that is not the last (41_simple_packet R109). -/
theorem step_payload_more {f : Framer} (hst : f.st = .payload) (hgo : f.cnt + 1 ≠ f.len) (b : Byte) :
    f.step (.byte b) = ({ f with raw := f.raw ++ [b], cnt := f.cnt + 1 }, none) := by
  rw [Framer.step, if_neg (by simp [hst])]
  simp only [Framer.onByte, hst, if_neg hgo]

/-- The last payload byte (41_simple_packet R109, R110). -/
theorem step_payload_last {f : Framer} (hst : f.st = .payload) (hend : f.cnt + 1 = f.len) (b : Byte) :
    f.step (.byte b) = Framer.complete { f with raw := f.raw ++ [b], cnt := f.len } := by
  rw [Framer.step, if_neg (by simp [hst])]
  simp only [Framer.onByte, hst, hend, if_true]

/-- A payload, the count of which reaches the length with its last byte (41_simple_packet R109, R110). -/
theorem feed_payload {f : Framer} {payload : Bytes} (hst : f.st = .payload) (hne : payload ≠ [])
    (hlen : f.cnt.toNat + payload.length = f.len.toNat) (rest : Bytes) :
    f.feed (payload ++ rest) =
      ({ f with st := .idle, cnt := f.len, raw := f.raw ++ payload },
        some (.ok (Framer.packet { f with raw := f.raw ++ payload })), rest) := by
  induction payload generalizing f with
  | nil => exact absurd rfl hne
  | cons b bs ih =>
    rw [List.length_cons] at hlen
    have hone : (f.cnt + 1).toNat = f.cnt.toNat + 1 := by bv_omega
    cases bs with
    | nil =>
      have hend : f.cnt + 1 = f.len := BitVec.eq_of_toNat_eq (hone.trans hlen)
      exact feed_of_outcome (step_payload_last hst hend b) rest
    | cons c cs =>
      have hgo : f.cnt + 1 ≠ f.len := fun h => by
        rw [← h, hone, List.length_cons] at hlen
        omega
      rw [List.cons_append, feed_of_none (step_payload_more hst hgo b),
        ih (f := { f with raw := f.raw ++ [b], cnt := f.cnt + 1 }) hst (by simp)
          (by dsimp only; omega)]
      simp [Framer.packet, Framer.payload]

/-- After the length field: the payload that it announces makes up the packet (41_simple_packet R108, R110). -/
theorem feed_startPayload {f g : Framer} {b : Byte} {payload : Bytes} (hstep : f.step (.byte b) = g.startPayload)
    (hcnt : g.cnt = 0) (hlen : g.len.toNat = payload.length) (hraw : g.raw.length = g.hlen.toNat) (rest : Bytes) :
    f.feed (b :: (payload ++ rest)) =
      (⟨.idle, g.cmd, g.len, g.len, g.hlen, g.raw ++ payload⟩,
        some (.ok ⟨g.cmd, payload, g.raw ++ payload, g.hlen.toNat⟩), rest) := by
  by_cases hz : g.len = 0
  · have hnil : payload = [] := List.eq_nil_of_length_eq_zero (by rw [← hlen, hz]; rfl)
    subst hnil
    rw [Framer.startPayload, if_pos hz] at hstep
    refine (feed_of_outcome hstep rest).trans ?_
    simp [Framer.packet, Framer.payload, hz, hcnt]
  · rw [Framer.startPayload, if_neg hz] at hstep
    have hne : payload ≠ [] := fun h => hz (BitVec.eq_of_toNat_eq (by rw [hlen, h]; rfl))
    rw [feed_of_none hstep, feed_payload rfl hne (by simp [hcnt, hlen])]
    simp [Framer.packet, Framer.payload, ← hraw, hlen]

/-- A length below 128, or below 256 after another command than the reserved one, needs one length byte (30_encoding R65). -/
theorem twoLengthBytes_short {cmd : Byte} {n : Nat} (h : n < if cmd = 0x56 then 128 else 256) :
    twoLengthBytes cmd (BitVec.ofNat 8 n) = false := by
  by_cases hc : cmd = 0x56
  · rw [if_pos hc] at h
    rw [twoLengthBytes, continues_short h, Bool.and_false]
  · rw [twoLengthBytes, beq_eq_false_iff_ne.mpr (show cmd ≠ Config.extCmd from hc), Bool.false_and]

/-- The framer takes a packet with a length field of one byte, and yields its record (41_simple_packet R110, R113). -/
theorem feed_sprx_short {f : Framer} (hst : f.st = .hunt0) {cmd : Byte} {payload : Bytes}
    (hlt : payload.length < if cmd = 0x56 then 128 else 256) {raw : Bytes}
    (hraw : raw = [0xAA, 0x55, cmd, BitVec.ofNat 8 payload.length] ++ payload) (rest : Bytes) :
    f.feed (raw ++ rest) = (⟨.idle, cmd, BitVec.ofNat 15 payload.length, BitVec.ofNat 15 payload.length, 4, raw⟩,
      some (.ok ⟨cmd, payload, raw, 4⟩), rest) := by
  have hn : payload.length < 256 := hlt.trans_le (by split <;> decide)
  have hlen : (BitVec.ofNat 8 payload.length).setWidth 15 = BitVec.ofNat 15 payload.length :=
    BitVec.eq_of_toNat_eq (by simp; omega)
  subst hraw
  refine (feed_header hst cmd _).trans ((feed_startPayload (step_len0_one rfl (twoLengthBytes_short hlt)) rfl ?_ rfl
    rest).trans ?_) <;> dsimp only <;> rw [hlen]
  · exact Nat.mod_eq_of_lt (by omega)
  · rfl

/-- The same with a length field of two bytes, which the reserved command can have (41_simple_packet R108, R110, R113). -/
theorem feed_sprx_long {f : Framer} (hst : f.st = .hunt0) {payload : Bytes} (hle : payload.length ≤ 32767) {raw : Bytes}
    (hraw : raw = [0xAA, 0x55, 0x56, BitVec.ofNat 8 (128 + payload.length / 256), BitVec.ofNat 8 (payload.length % 256)] ++
      payload) (rest : Bytes) :
    f.feed (raw ++ rest) = (⟨.idle, 0x56, BitVec.ofNat 15 payload.length, BitVec.ofNat 15 payload.length, 5, raw⟩,
      some (.ok ⟨0x56, payload, raw, 5⟩), rest) := by
  have hlen : lenHigh (BitVec.ofNat 8 (128 + payload.length / 256)) ||| (BitVec.ofNat 8 (payload.length % 256)).setWidth 15 =
      BitVec.ofNat 15 payload.length :=
    BitVec.eq_of_toNat_eq ((lenTwo_encoded hle).trans (by rw [BitVec.toNat_ofNat]; omega))
  have htwo : twoLengthBytes 0x56 (BitVec.ofNat 8 (128 + payload.length / 256)) = true := continues_long hle
  subst hraw
  refine (feed_header hst 0x56 _).trans ((feed_of_none (step_len0_two rfl htwo) _).trans
    ((feed_startPayload (step_len1 rfl _) rfl ?_ rfl rest).trans ?_)) <;> dsimp only <;> rw [hlen]
  · exact Nat.mod_eq_of_lt (by omega)
  · rfl

/-- The framer takes a packet of either form exactly. -/
theorem feed_sprx {f : Framer} {pk : Packet} (hst : f.st = .hunt0) (hpk : IsSprx pk) (rest : Bytes) :
    ∃ g : Framer, g.st = .idle ∧ g.raw = pk.raw ∧ f.feed (pk.raw ++ rest) = (g, some (.ok pk), rest) := by
  obtain ⟨cmd, payload, raw, hlen⟩ := pk
  obtain ⟨hlt, hh, hraw⟩ | ⟨hc, hle, hh, hraw⟩ := hpk <;> dsimp only at *
  · subst hh
    exact ⟨_, rfl, rfl, feed_sprx_short hst hlt hraw rest⟩
  · subst hh hc
    exact ⟨_, rfl, rfl, feed_sprx_long hst hle hraw rest⟩

/-! The events one at a time. -/

theorem readerEvent_rx (e : ChanEvent) (s : State) : (s.readerEvent e).chan.rx = s.chan.rx := by
  cases e with
  | byte b =>
    obtain ⟨buf, ⟨f, h⟩ | ⟨-, h⟩ | ⟨-, -, h⟩⟩ := readerPoll_cases { s with mux := { s.mux with buf := s.mux.buf ++ [b] } } <;>
      exact congrArg (·.chan.rx) h
  | timeout => rfl
  | fail => rfl

/-- Taking an event consumes no other. -/
theorem takeEvent_rx (e : Event) (s : State) : (s.takeEvent e).chan.rx = s.chan.rx := by
  cases e with
  | cancel =>
    unfold State.takeEvent State.cancelEvent
    dsimp only
    split <;> rfl
  | chan e =>
    unfold State.takeEvent
    dsimp only
    split
    · split
      · rw [readerEvent_rx]
      · rw [framerEvent_rx]
    · split
      · rw [readerEvent_rx]
      · rw [framerEvent_rx]

/-- The state with these events in the channel. -/
def State.withRx (rx : List Event) (s : State) : State := { s with chan := { s.chan with rx := rx } }

@[simp] theorem State.withRx_sp (rx : List Event) (s : State) : (s.withRx rx).sp = s.sp := rfl
@[simp] theorem State.withRx_task (rx : List Event) (s : State) : (s.withRx rx).task = s.task := rfl
@[simp] theorem State.withRx_reading (rx : List Event) (s : State) : (s.withRx rx).reading = s.reading := rfl
@[simp] theorem State.withRx_mux (rx : List Event) (s : State) : (s.withRx rx).mux = s.mux := rfl
@[simp] theorem State.withRx_rx (rx : List Event) (s : State) : (s.withRx rx).chan.rx = rx := rfl

theorem State.withRx_self {s : State} {rx : List Event} (h : s.chan.rx = rx) : s.withRx rx = s := by subst h; rfl

/-- While an operation waits, the first event in the channel is taken, and the waiting operations go on. -/
theorem settle_of_event {s : State} {e : Event} {es : List Event} (hw : s.waiting = true) (hrx : s.chan.rx = e :: es) :
    s.settle = ((s.withRx es).takeEvent e).settle := by
  conv_lhs => rw [State.settle, hrx, State.drain, if_pos hw]
  rw [State.settle, takeEvent_rx]
  rfl

/-- While an operation waits for the framer and no `MUX.READ` waits, the next event is the framer's. -/
theorem settle_framer_event {s : State} {e : ChanEvent} {es : List Event} (hst : s.sp.st ≠ .idle)
    (htask : s.task.isSome = true) (hread : s.reading = false) (hrx : s.chan.rx = .chan e :: es) :
    s.settle = ((s.withRx es).framerEvent e).settle := by
  rw [settle_of_event (by simp [State.waiting, State.framing, htask, hst]) hrx]
  simp [State.takeEvent, hread]

/-- While a `MUX.READ` alone waits, the next event is the reader's. -/
theorem settle_reader_event {s : State} {e : ChanEvent} {es : List Event} (hread : s.reading = true) (htask : s.task = none)
    (hrx : s.chan.rx = .chan e :: es) : s.settle = ((s.withRx es).readerEvent e).settle := by
  rw [settle_of_event (by simp [State.waiting, hread]) hrx]
  simp [State.takeEvent, State.framing, hread, htask]

theorem framerEvent_of_none {s : State} {e : ChanEvent} {g : Framer} (h : s.sp.step e = (g, none)) :
    s.framerEvent e = { s with sp := g } := by
  simp [State.framerEvent, h]

theorem framerEvent_of_outcome {s : State} {e : ChanEvent} {g : Framer} {o : Except Err Packet} {fs : List Frame}
    (h : s.sp.step e = (g, some o)) (htask : s.task = some fs) :
    s.framerEvent e = State.unwind fs (resOf .packet o) { s with sp := g } := by
  simp [State.framerEvent, h, htask]

/-- Bytes in the channel while an operation waits for the framer and no `MUX.READ` waits: the outcome that they bring the
framer to goes up to the operation, and the rest of them stays in the channel. -/
theorem settle_feed {s : State} {fs : List Frame} {w rest : Bytes} {es : List Event} {g : Framer} {o : Except Err Packet}
    (hst : s.sp.st ≠ .idle) (htask : s.task = some fs) (hread : s.reading = false) (hrx : s.chan.rx = byteEvents w ++ es)
    (hfeed : s.sp.feed w = (g, some o, rest)) :
    s.settle = (State.unwind fs (resOf .packet o) (State.withRx (byteEvents rest ++ es) { s with sp := g })).settle := by
  induction w generalizing s with
  | nil => cases hfeed
  | cons b bs ih =>
    rw [settle_framer_event (e := .byte b) (es := byteEvents bs ++ es) hst (by simp [htask]) hread hrx]
    rcases hstep : s.sp.step (.byte b) with ⟨f, _ | o'⟩
    · have hf : f.st ≠ .idle := by simpa [hstep] using (framer_step_outcome s.sp (.byte b) hst).not
      rw [feed_of_none hstep] at hfeed
      rw [framerEvent_of_none (s := s.withRx (byteEvents bs ++ es)) hstep]
      exact ih hf htask hread rfl hfeed
    · rw [feed_of_outcome hstep] at hfeed
      cases hfeed
      rw [framerEvent_of_outcome (s := s.withRx (byteEvents rest ++ es)) hstep htask]
      rfl

/-- A byte that is no delimiter joins the buffer of a `MUX.READ` that waits (43_mux_stream R168). -/
theorem readerEvent_of_data {s : State} {b : Byte} (hread : s.reading = true) (hcancel : s.mux.cancel = false)
    (hbuf : Config.muxDelim ∉ s.mux.buf) (hb : b ≠ Config.muxDelim) :
    s.readerEvent (.byte b) = { s with mux := { s.mux with buf := s.mux.buf ++ [b] } } := by
  have h : Config.muxDelim ∉ s.mux.buf ++ [b] := by simpa [hbuf] using Ne.symm hb
  simp [State.readerEvent, State.readerPoll, muxScan_no_delim _ _ _ _ h, hcancel, hread]

/-- The scan delivers the frame in front of the first delimiter, if the filter accepts it, and keeps what follows
(43_mux_stream R168). -/
theorem muxScan_accepted {subs : List Topic} {promisc : Bool} {passed raw : Bytes} {f : Topic × Bytes}
    (hraw : Config.muxDelim ∉ raw) (h : acceptRaw subs promisc (passed ++ raw) = some f) (rest : Bytes) :
    muxScan subs promisc passed (raw ++ Config.muxDelim :: rest) = (some f, rest) := by
  induction raw generalizing passed with
  | nil =>
    rw [List.append_nil] at h
    simp [muxScan, h]
  | cons b bs ih =>
    rw [List.mem_cons, not_or] at hraw
    rw [List.cons_append, muxScan, if_neg (Ne.symm hraw.1)]
    exact ih hraw.2 (by simpa using h)

/-- The delimiter after a frame that the filter accepts ends the `MUX.READ` with it (43_mux_stream R168, R170). -/
theorem readerEvent_of_delim {s : State} {t : Topic} {payload : Bytes} (hbuf : Config.muxDelim ∉ s.mux.buf)
    (h : acceptRaw s.mux.subs s.mux.promisc s.mux.buf = some (t, payload)) :
    s.readerEvent (.byte Config.muxDelim) =
      { s with mux := { s.mux with buf := [] }, reading := false
               reports := s.reports ++ [⟨.reader, .ok (.frame t payload)⟩] } := by
  have hscan : muxScan s.mux.subs s.mux.promisc [] (s.mux.buf ++ [Config.muxDelim]) = (some (t, payload), []) :=
    muxScan_accepted hbuf h []
  simp [State.readerEvent, State.readerPoll, hscan, State.report]

/-- The rest of a frame that the filter accepts, and its delimiter, in the channel while a `MUX.READ` alone waits: the
`MUX.READ` ends with the frame, and what follows stays in the channel (43_mux_stream R168, R170). -/
theorem settle_read_frame {s : State} {t : Topic} {payload raw : Bytes} {es : List Event} (hread : s.reading = true)
    (htask : s.task = none) (hcancel : s.mux.cancel = false) (hbuf : Config.muxDelim ∉ s.mux.buf)
    (hraw : Config.muxDelim ∉ raw) (haccept : acceptRaw s.mux.subs s.mux.promisc (s.mux.buf ++ raw) = some (t, payload))
    (hrx : s.chan.rx = byteEvents (raw ++ [Config.muxDelim]) ++ es) :
    s.settle = State.withRx es { s with
      mux := { s.mux with buf := [] }, reading := false
      reports := s.reports ++ [⟨.reader, .ok (.frame t payload)⟩] } := by
  induction raw generalizing s with
  | nil =>
    rw [List.append_nil] at haccept
    rw [settle_reader_event (e := .byte Config.muxDelim) (es := es) hread htask hrx,
      readerEvent_of_delim (s := s.withRx es) hbuf haccept,
      settle_of_not_waiting _ (by simp [State.waiting, State.framing, htask])]
    rfl
  | cons b bs ih =>
    rw [List.mem_cons, not_or] at hraw
    obtain ⟨hb, hbs⟩ := hraw
    rw [settle_reader_event (e := .byte b) (es := byteEvents (bs ++ [Config.muxDelim]) ++ es) hread htask hrx,
      readerEvent_of_data (s := s.withRx (byteEvents (bs ++ [Config.muxDelim]) ++ es)) hread hcancel hbuf (Ne.symm hb)]
    exact ih (s := State.withRx _ { s with mux := { s.mux with buf := s.mux.buf ++ [b] } }) hread htask hcancel
      (by simp [hbuf, hb]) hbs (by simpa using haccept) rfl

/-! Arrivals. -/

/-- A packet that arrives while a receiving operation waits in `HUNT0` goes up to it as its outcome. -/
theorem arrive_sprx {s : State} {fs : List Frame} {pk : Packet} (hrx : s.chan.rx = []) (hst : s.sp.st = .hunt0)
    (htask : s.task = some fs) (hread : s.reading = false) (hpk : IsSprx pk) :
    ∃ g : Framer, g.st = .idle ∧ g.raw = pk.raw ∧
      s.arriveBytes pk.raw = (State.unwind fs (.ok (.packet pk)) { s with sp := g }).settle := by
  obtain ⟨g, hidle, hraw, hfeed⟩ := feed_sprx hst hpk []
  rw [List.append_nil] at hfeed
  refine ⟨g, hidle, hraw, ?_⟩
  have h := settle_feed (s := s.withRx (s.chan.rx ++ byteEvents pk.raw)) (es := []) (by simp [hst]) htask hread
    (by simp [hrx]) hfeed
  exact h.trans (congrArg (fun u => (State.unwind fs (.ok (.packet pk)) u).settle)
    (State.withRx_self (s := { s with sp := g }) hrx))

/-- The frame in the channel ends the `MUX.READ` that alone waits for it, if the filter accepts it. -/
theorem arrive_frame {s : State} {t : Topic} (payload : Bytes) (hrx : s.chan.rx = []) (hread : s.reading = true)
    (htask : s.task = none) (hcancel : s.mux.cancel = false) (hbuf : s.mux.buf = [])
    (hfilter : s.mux.promisc = true ∨ t ∈ s.mux.subs) :
    s.arriveBytes (muxFrame t payload) =
      { s with reading := false, reports := s.reports ++ [⟨.reader, .ok (.frame t payload)⟩] } := by
  have hzero := zero_notMem_cobsEncode (t.bytes ++ payload)
  have haccept : acceptRaw s.mux.subs s.mux.promisc (cobsEncode (t.bytes ++ payload)) = some (t, payload) := by
    simp only [acceptRaw, frameOfRaw_cobsEncode]
    exact if_pos (by simpa using hfilter)
  have hmux : ({ s.mux with buf := [] } : Mux) = s.mux := by rw [← hbuf]
  have hchan : ({ s.chan with rx := [] } : Channel) = s.chan := by rw [← hrx]
  refine (settle_read_frame (s := s.withRx (s.chan.rx ++ byteEvents (muxFrame t payload))) (es := []) hread htask hcancel
    (by simp [hbuf]) hzero (by simpa [hbuf] using haccept) (by simp [hrx, muxFrame])).trans ?_
  simp only [State.withRx, hmux, hchan]

/-- Settles O37: the bytes of each row go through the framer or the stream buffer to their outcome, and the reply's data and the
frame are what the decoders give back. -/
theorem arrivalsEndTheWait : Obligations.ArrivalsEndTheWait := by
  intro cmd sub c payload t s hrx
  refine ⟨fun hst htask hread hlt raw hraw => ?_, fun hst htask hread hack hfit hlen => ?_,
    fun hread htask hcancel hbuf hfilter => congrArg _ (arrive_frame payload hrx hread htask hcancel hbuf hfilter)⟩
  · obtain ⟨g, hidle, -, h⟩ := arrive_sprx (pk := ⟨cmd, payload, raw, 4⟩) hrx hst htask hread (.inl ⟨hlt, rfl, hraw⟩)
    refine ⟨g, hidle, ?_⟩
    have hexec : exec (.fSprxShort cmd payload) s = .next (s.arriveBytes raw) := by
      subst hraw; exact if_pos hlt
    rw [hexec, h]
    exact congrArg _ (settle_of_empty _ hrx)
  · obtain ⟨pk, body, t0, t1, hpk, hwire, hcmd, hcrc, hpayload, hbody⟩ := extReply_packet sub hfit
    obtain ⟨g, hidle, -, h⟩ := arrive_sprx hrx hst htask hread hpk
    have hdec : extDecode s.params pk sub c = .ok payload := extDecode_reply hcmd hcrc hpayload hack hbody hlen
    refine ⟨g, hidle, ?_⟩
    have hexec : exec (.fExtRx sub (acked s.params c payload)) s = .next (s.arriveBytes pk.raw) := by
      simp only [exec, execFExtRx, hwire]
    have hunwind : State.unwind [.decode sub c] (.ok (.packet pk)) { s with sp := g } = { s with
        sp := g, task := none, querying := false, reports := s.reports ++ [⟨.owner, .ok (.bytes payload)⟩] } := by
      simp only [State.unwind, Frame.resume, hdec]
      rfl
    rw [hexec, h, hunwind]
    exact congrArg _ (settle_of_empty _ hrx)

end Sys2Proof.Machine
end

section
/-! The framer's packets (O16), arrivals while nothing waits (O36), and the state after reset (O56, O57). -/

namespace Sys2Proof.Machine

/-! The packets that the framer yields. -/

/-- The framer holds a whole packet: the header, of three bytes and one or two of length, and as many bytes more as the length
says (41_simple_packet R110). -/
structure Framer.Full (g : Framer) : Prop where
  held : g.prefixed (g.hlen.toNat + g.len.toNat) = true
  header : 3 ≤ g.hlen.toNat
  field : g.hlen.toNat ≤ 5

theorem Framer.lengthRead.le_five {f : Framer} (h : f.lengthRead) : f.hlen.toNat ≤ 5 := by
  obtain ⟨h, -⟩ | ⟨h, -⟩ := h <;> rw [h] <;> decide

/-- The record of a packet that is held in full: the payload is what follows the header in the bytes held. -/
theorem Framer.Full.packet {g : Framer} (h : g.Full) :
    g.packet.payload = g.packet.raw.drop g.packet.hlen ∧
      g.packet.raw.length = g.packet.hlen + g.packet.payload.length ∧ g.packet.raw.length ≤ 32772 ∧
      g.packet.raw.take 3 = [0xAA, 0x55, g.packet.cmd] := by
  obtain ⟨hlen, htake⟩ := (prefixed_iff g _).mp h.held
  have hheader := h.header
  have hfield := h.field
  have hmax : g.len.toNat < 32768 := g.len.isLt
  have hpayload : g.packet.payload = g.raw.drop g.hlen.toNat := List.take_of_length_le (by simp [hlen])
  refine ⟨hpayload, ?_, ?_, ?_⟩
  · rw [hpayload, List.length_drop]
    simp only [Framer.packet]
    omega
  · simp only [Framer.packet]
    omega
  · rw [List.take_of_length_le (l := [Config.sync0, Config.sync1, g.cmd]) (by simp; omega)] at htake
    exact htake

/-- After the length field a packet comes at once only when no payload is announced (41_simple_packet R107, R108). -/
theorem startPayload_packet {f : Framer} {p : Packet} (h : f.startPayload.2 = some (.ok p)) :
    f.len = 0 ∧ p = f.packet := by
  unfold Framer.startPayload at h
  split at h <;> rename_i hz
  · cases h; exact ⟨hz, rfl⟩
  · cases h

theorem startPayload_full {f : Framer} {p : Packet} (h : f.startPayload.2 = some (.ok p))
    (hraw : f.prefixed f.hlen.toNat = true) (hlow : 3 ≤ f.hlen.toNat) (hhigh : f.hlen.toNat ≤ 5) :
    ∃ g : Framer, g.Full ∧ p = g.packet := by
  obtain ⟨hz, hp⟩ := startPayload_packet h
  exact ⟨f, ⟨by simpa [hz] using hraw, hlow, hhigh⟩, hp⟩

/-- A packet comes with the last byte of its length field or of its payload, and is then held in full (41_simple_packet
R110). -/
theorem onByte_full {f : Framer} {b : Byte} {p : Packet} (hok : f.ok = true) (h : (f.onByte b).2 = some (.ok p)) :
    ∃ g : Framer, g.Full ∧ p = g.packet := by
  unfold Framer.onByte at h
  split at h <;> rename_i hst
  case h_1 => cases h
  case h_2 => split at h <;> cases h
  case h_3 => split at h <;> cases h
  case h_4 => cases h
  case h_5 =>
    have hraw : f.prefixed 3 = true := by simpa [Framer.ok, hst] using hok
    split at h
    · cases h
    · exact startPayload_full h (prefixed_append f _ b (by decide) hraw rfl rfl) (by simp) (by simp)
  case h_6 =>
    obtain ⟨hraw, -⟩ : f.prefixed 4 = true ∧ _ := by simpa [Framer.ok, hst, and_assoc] using hok
    exact startPayload_full h (prefixed_append f _ b (by decide) hraw rfl rfl) (by simp) (by simp)
  case h_7 =>
    obtain ⟨hraw, hcnt, hlen⟩ := (ok_payload_iff f hst).mp hok
    dsimp only at h
    split at h <;> rename_i hend
    · cases h
      have hone : f.hlen.toNat + f.len.toNat = f.hlen.toNat + f.cnt.toNat + 1 := by rw [← hend]; bv_omega
      refine ⟨{ f with raw := f.raw ++ [b], cnt := f.cnt + 1 }, ⟨?_, hlen.three_le, hlen.le_five⟩, rfl⟩
      dsimp only
      rw [hone]
      exact prefixed_append f _ b (hlen.three_le.trans (Nat.le_add_right _ _)) hraw rfl rfl
    · cases h

/-- Settles O16: the registers by the framer's step lemma, the packet's facts because the framer holds it in full. -/
theorem framerKeepsItsRegistersInStep : Obligations.FramerKeepsItsRegistersInStep := by
  intro f e hok
  refine ⟨framer_step_ok f e hok, fun p h => ?_⟩
  unfold Framer.step at h
  split at h
  · cases h
  · cases e with
    | byte b =>
      obtain ⟨g, hfull, rfl⟩ := onByte_full hok h
      exact hfull.packet
    | timeout => cases h
    | fail => cases h

/-! Arrivals while nothing waits. -/

theorem arriveBytes_of_not_waiting {s : State} (hread : s.reading = false) (htask : s.task = none) (bs : Bytes) :
    s.arriveBytes bs = { s with chan := { s.chan with rx := s.chan.rx ++ byteEvents bs } } :=
  arrive_of_not_waiting _ s (by simp [State.waiting, State.framing, hread, htask])

/-- The bytes of a packet with a length field of two bytes, the length written out (30_encoding R65). -/
theorem sprxLong_eq {payload : Bytes} (h : payload.length ≤ 32767) :
    sprxLong payload = [0xAA, 0x55, 0x56, BitVec.ofNat 8 (128 + payload.length / 256),
      BitVec.ofNat 8 (payload.length % 256)] ++ payload := by
  have hlow : BitVec.ofNat 8 payload.length = BitVec.ofNat 8 (payload.length % 256) := by
    apply BitVec.eq_of_toNat_eq; simp
  rw [sprxLong, hlow, ← lenFirst_eq _ h]
  rfl

/-- Settles O36: each row's bytes arrive, and with nothing waiting they are consumed by nothing. -/
theorem arrivalsStayInTheChannel : Obligations.ArrivalsStayInTheChannel := by
  intro cmd sub payload wire t s hread htask
  have stay := arriveBytes_of_not_waiting hread htask
  refine ⟨fun hlt => ?_, fun hle => ?_, fun hwire => ?_, congrArg _ (stay _), congrArg _ (stay _), fun hlen hzero => ?_,
    congrArg _ (stay _)⟩
  · exact (if_pos hlt).trans (congrArg _ (stay _))
  · rw [← sprxLong_eq hle]
    exact (if_pos hle).trans (congrArg _ (stay _))
  · simp only [exec, execFExtRx, hwire, stay]
  · exact (if_pos ⟨hlen, by simpa using hzero⟩).trans (congrArg _ (stay _))

/-! Reset. -/

theorem crcBuild_of_valid {w : Nat} (P : Nat) (h : 8 ≤ w) : crcBuild w P = .ok (crcTable (BitVec.ofNat w P)) :=
  if_neg (not_lt.mpr h)

/-- Settles O56: the registers as `State.reset` gives them; the tables are those that `CRC.BUILD` makes. -/
theorem resetLeavesTheTablesValues : Obligations.ResetLeavesTheTablesValues :=
  ⟨rfl, rfl, rfl, rfl, rfl, rfl, rfl, rfl, crcBuild_of_valid _ (by decide), crcBuild_of_valid _ (by decide)⟩

/-- After reset the invariant holds but for the channel: no operation waits, and each register has a value that it allows. -/
theorem reset_sound : State.reset.Sound where
  framer := rfl
  task := by decide
  reader := nofun
  subs := rfl
  legacy := rfl
  record := nofun
  params := by decide

/-- Settles O57: the sound reset state has an empty channel. -/
theorem invariantHoldsAtReset : Obligations.InvariantHoldsAtReset :=
  (inv_iff State.reset).mpr ⟨reset_sound, fun _ => rfl⟩

end Sys2Proof.Machine
end

section
/-! `RETRY` (O48): one attempt as a run of the operation alone, and the loop of attempts as a repetition of it. -/

namespace Sys2Proof.Machine

/-! The registers beside an operation: the operation neither reads nor writes what waits for it and the number of its attempt. -/

/-- The state with its waiting operation and its attempt counter changed. -/
def State.aside (T : Option (List Frame) → Option (List Frame)) (A : Nat → Nat) (s : State) : State :=
  { s with task := T s.task, attempt := A s.attempt }

/-- The flow with its state changed. -/
def Flow.map (g : State → State) : Flow → Flow
  | .done r s => .done r (g s)
  | .wait fs s => .wait fs (g s)

theorem Flow.map_ite (g : State → State) (c : Prop) [Decidable c] (x y : Flow) :
    (if c then x else y).map g = if c then x.map g else y.map g := apply_ite _ _ _ _

section Aside
variable (T : Option (List Frame) → Option (List Frame)) (A : Nat → Nat)

@[simp] theorem State.aside_sp (s : State) : (s.aside T A).sp = s.sp := rfl
@[simp] theorem State.aside_reading (s : State) : (s.aside T A).reading = s.reading := rfl
@[simp] theorem State.aside_chan (s : State) : (s.aside T A).chan = s.chan := rfl
@[simp] theorem State.aside_snapshot (s : State) : (s.aside T A).snapshot = s.snapshot := rfl
@[simp] theorem State.aside_params (s : State) : (s.aside T A).params = s.params := rfl

theorem chanWrite_aside (bytes : Bytes) (s : State) :
    (s.aside T A).chanWrite bytes = ((s.chanWrite bytes).1.aside T A, (s.chanWrite bytes).2) := by
  unfold State.chanWrite
  simp only [State.aside]
  split <;> rfl

theorem startXchg_aside (sub : Byte) (payload : Bytes) (s : State) :
    (s.aside T A).startXchg sub payload =
      ((s.startXchg sub payload).1, (s.startXchg sub payload).2.aside T A) := by
  unfold State.startXchg
  rw [State.aside_sp]
  split
  · rfl
  · cases extTx sub payload with
    | error e => rfl
    | ok wire =>
      simp only [chanWrite_aside]
      rcases s.chanWrite wire with ⟨t, _ | _⟩ <;> rfl

theorem request_aside (sub : Byte) (payload : Bytes) (fs : List Frame) (s : State) :
    (s.aside T A).request sub payload fs = (s.request sub payload fs).map (State.aside T A) := by
  unfold State.request
  rw [startXchg_aside]
  rcases s.startXchg sub payload with ⟨_ | e, t⟩ <;> rfl

theorem startHost_aside (op : HostOp) (s : State) :
    startHost op (s.aside T A) = (startHost op s).map (State.aside T A) := by
  cases op
  case status payload c =>
    simp only [startHost, State.aside_snapshot]
    split
    · rfl
    · exact request_aside T A _ _ _ s
  case boot op => rfl
  case upload u => exact request_aside T A _ _ _ { s with acc32 := crc32 u.payload 0 }
  all_goals exact request_aside T A _ _ _ s

theorem launch_aside (op : HostOp) (after : List Frame) (s : State) :
    launch op after (s.aside T A) = (launch op after s).map (State.aside T A) := by
  unfold launch
  rw [startHost_aside]
  rcases startHost op s with ⟨v | e, t⟩ | ⟨fs, t⟩
  · rfl
  · simp only [Flow.map]
    split <;> rfl
  · rfl

/-- The attempts of `RETRY` do not depend on what waits; they write the attempt counter. -/
theorem attempts_aside (op : HostOp) (policy : RetryPolicy) (left attempt : Nat) (s : State) :
    attempts op policy left attempt (s.aside T id) = (attempts op policy left attempt s).map (State.aside T id) := by
  have once : ∀ n u, attemptOnce op policy n (State.aside T id u) = (attemptOnce op policy n u).map (State.aside T id) := by
    intro n u
    unfold attemptOnce
    rw [launch_aside]
    rcases launch op [.retry op policy] u with _ | _ <;> rfl
  induction left generalizing attempt s with
  | zero => exact once attempt s
  | succ left ih =>
    unfold attempts
    rw [once]
    rcases attemptOnce op policy attempt s with ⟨v | e, t⟩ | ⟨fs, t⟩
    · rfl
    · simp only [Flow.map, State.aside_params, ih]
      split <;> rfl
    · rfl

end Aside

/-- Every frame but that of `RETRY`. -/
def Frame.plain : Frame → Bool
  | .retry _ _ => false
  | _ => true

theorem resume_aside (T : Option (List Frame) → Option (List Frame)) (A : Nat → Nat) (f : Frame) (r : Res) (s : State)
    (h : f.plain = true ∨ A = id) : f.resume r (s.aside T A) = (f.resume r s).map (State.aside T A) := by
  cases f
  case retry op policy =>
    obtain rfl : A = id := h.resolve_left (by simp [Frame.plain])
    cases r with
    | ok v => rfl
    | error e =>
      simp only [Frame.resume, State.aside_params, attempts_aside, Flow.map_ite]
      rfl
  case init length address crc =>
    rcases r with v | e
    · cases v
      case bytes q => simp only [Frame.resume, State.aside_params, Flow.map_ite]; rfl
      all_goals rfl
    · rfl
  case upload u i =>
    cases r with
    | ok v => simp only [Frame.resume, uploadNext, launch_aside, Flow.map_ite]
    | error e => rfl
  case download d i out =>
    cases r with
    | ok v => simp only [Frame.resume, downloadNext, launch_aside, Flow.map_ite]
    | error e => rfl
  all_goals
    rcases r with v | e
    · cases v <;> rfl
    · rfl

/-- What goes up the frames does not depend on the operation registered as waiting. -/
theorem unwind_aside (T : Option (List Frame) → Option (List Frame)) (fs : List Frame) (r : Res) (s : State) :
    State.unwind fs r (s.aside T id) = State.unwind fs r s := by
  induction fs generalizing r s with
  | nil => rfl
  | cons f fs ih =>
    simp only [State.unwind, resume_aside T id f r s (.inr rfl)]
    cases f.resume r s with
    | done r' t => exact ih r' t
    | wait fs' t => rfl

/-! The frames of an operation that `RETRY` does not wrap. -/

/-- A flow that waits in plain frames only. -/
def Flow.plain : Flow → Prop
  | .done _ _ => True
  | .wait fs _ => ∀ f ∈ fs, f.plain = true

theorem request_plain (sub : Byte) (payload : Bytes) {fs : List Frame} (h : ∀ f ∈ fs, f.plain = true) (s : State) :
    (s.request sub payload fs).plain := by
  unfold State.request
  split
  · exact h
  · trivial

theorem startHost_plain (op : HostOp) (s : State) : (startHost op s).plain := by
  cases op
  case status payload c =>
    unfold startHost
    dsimp only
    split
    · trivial
    · exact request_plain _ _ (by simp [Frame.plain]) s
  case command code payload c =>
    refine request_plain _ _ ?_ s
    unfold keepFrames
    split <;> simp [Frame.plain]
  case boot op => trivial
  all_goals exact request_plain _ _ (by simp [Frame.plain]) _

theorem launch_plain (op : HostOp) {after : List Frame} (h : ∀ f ∈ after, f.plain = true) (s : State) :
    (launch op after s).plain := by
  have hstart := startHost_plain op s
  unfold launch
  split <;> rename_i hx <;> rw [hx] at hstart
  · intro f hf
    exact (List.mem_append.mp hf).elim (hstart f) (h f)
  · trivial
  · trivial

theorem resume_plain {f : Frame} (h : f.plain = true) (r : Res) (s : State) : (f.resume r s).plain := by
  cases f
  case retry op policy => cases h
  case init length address crc =>
    rcases r with v | e
    · cases v
      case bytes q => simp only [Frame.resume]; split <;> trivial
      all_goals trivial
    · trivial
  case upload u i =>
    cases r with
    | ok v => simp only [Frame.resume, uploadNext]; split <;> exact launch_plain _ (by simp [Frame.plain]) s
    | error e => trivial
  case download d i out =>
    cases r with
    | ok v => simp only [Frame.resume, downloadNext]; split <;> exact launch_plain _ (by simp [Frame.plain]) s
    | error e => trivial
  all_goals
    rcases r with v | e
    · cases v <;> trivial
    · trivial

/-! An operation alone: what its frames make of an outcome, of an event, and of the events in the channel. -/

/-- An outcome goes up an operation's frames until one waits for another packet, or the operation ends. -/
def climb : List Frame → Res → State → Flow
  | [], r, s => .done r s
  | f :: fs, r, s =>
    match f.resume r s with
    | .done r' t => climb fs r' t
    | .wait fs' t => .wait (fs' ++ fs) t

/-- An operation that waits in these frames takes an event, while no `MUX.READ` waits. -/
def hear (e : Event) (fs : List Frame) (s : State) : Flow :=
  match e with
  | .cancel => .wait fs s.cancelEvent
  | .chan e =>
    match s.sp.step e with
    | (g, none) => .wait fs { s with sp := g }
    | (g, some o) => climb fs (resOf .packet o) { s with sp := g }

/-- An operation that waits in these frames takes the channel's events until it ends or none is left. The events given are
those of `chan.rx`. -/
def follow : List Event → List Frame → State → Flow
  | [], fs, s => .wait fs s
  | e :: es, fs, s =>
    match hear e fs (s.withRx es) with
    | .wait fs' t => follow es fs' t
    | .done r t => .done r t

/-- The operation's flow as part of the machine, with the frames `after` below its own. -/
def Flow.under (after : List Frame) : Flow → State
  | .done r s => State.unwind after r s
  | .wait fs s => { s with task := some (fs ++ after) }

theorem unwind_append (fs after : List Frame) (r : Res) (s : State) :
    State.unwind (fs ++ after) r s = (climb fs r s).under after := by
  induction fs generalizing r s with
  | nil => rfl
  | cons f fs ih =>
    simp only [List.cons_append, State.unwind, climb]
    cases f.resume r s with
    | done r' t => exact ih r' t
    | wait fs' t => simp [Flow.under]

/-- What an operation leaves alone, the framer, the stream's cancel flag and the host's registers aside. -/
structure Behind (s t : State) : Prop where
  reading : t.reading = s.reading
  task : t.task = s.task
  params : t.params = s.params
  device : t.device = s.device
  reports : t.reports = s.reports

theorem Behind.refl (s : State) : Behind s s := ⟨rfl, rfl, rfl, rfl, rfl⟩

theorem Behind.trans {s t u : State} (h : Behind s t) (k : Behind t u) : Behind s u :=
  ⟨k.reading.trans h.reading, k.task.trans h.task, k.params.trans h.params, k.device.trans h.device,
    k.reports.trans h.reports⟩

/-- Where nothing is registered as waiting, clearing that register changes nothing. -/
theorem task_cleared {t : State} (h : t.task = none) : ({ t with task := none } : State) = t := by rw [← h]

theorem behind_framer (s : State) (g : Framer) : Behind s { s with sp := g } := ⟨rfl, rfl, rfl, rfl, rfl⟩

theorem behind_withRx (es : List Event) (s : State) : Behind s (s.withRx es) := ⟨rfl, rfl, rfl, rfl, rfl⟩

theorem Hosted.behind {s t : State} (h : Hosted s t) : Behind s t ∧ t.chan.rx = s.chan.rx ∧ t.sp = s.sp := by
  obtain ⟨_, _, _, _, _, _, _, _, -, -, rfl⟩ := h
  exact ⟨⟨rfl, rfl, rfl, rfl, rfl⟩, rfl, rfl⟩

/-- The flow of an operation: it ends, or it waits with the framer at work; the events in the channel are those left. -/
inductive Flow.OfOp (s : State) (es : List Event) : Flow → Prop
  | done {r : Res} {t : State} (h : Behind s t) : OfOp s es (.done r t)
  | wait {fs : List Frame} {t : State} (h : Behind s t) (hst : t.sp.st ≠ .idle) (hrx : t.chan.rx = es) :
    OfOp s es (.wait fs t)

theorem FlowOf.ofOp {s : State} {x : Flow} (h : FlowOf s x) : x.OfOp s s.chan.rx := by
  obtain ⟨-, fs, t, ht, rfl⟩ | ⟨r, t, ht, rfl⟩ := h
  · obtain ⟨hb, hrx, -⟩ := ht.behind
    exact .wait (hb.trans (behind_framer t _)) (by simp) hrx
  · exact .done ht.behind.1

theorem climb_cases (fs : List Frame) (r : Res) (s : State) : FlowOf s (climb fs r s) := by
  induction fs generalizing r s with
  | nil => exact .done r (.refl s)
  | cons f fs ih =>
    unfold climb
    obtain ⟨hst, fs', t, ht, h⟩ | ⟨r', t, ht, h⟩ := resume_cases f r s <;> rw [h]
    · exact .inl ⟨hst, fs' ++ fs, t, ht, rfl⟩
    · exact .after ht (ih r' t)

theorem Flow.OfOp.after {s t : State} {es : List Event} {x : Flow} (h : Behind s t) (k : x.OfOp t es) : x.OfOp s es := by
  cases k with
  | done hb => exact .done (h.trans hb)
  | wait hb hst hrx => exact .wait (h.trans hb) hst hrx

theorem hear_ofOp (e : Event) (fs : List Frame) {s : State} (hread : s.reading = false) (hst : s.sp.st ≠ .idle) :
    (hear e fs s).OfOp s s.chan.rx := by
  cases e with
  | cancel =>
    have hcancel : s.cancelEvent = { s with mux := { s.mux with cancel := true } } := by simp [State.cancelEvent, hread]
    unfold hear
    rw [hcancel]
    exact .wait ⟨rfl, rfl, rfl, rfl, rfl⟩ hst rfl
  | chan e =>
    have hout := framer_step_outcome s.sp e hst
    unfold hear
    rcases hstep : s.sp.step e with ⟨g, _ | o⟩ <;> rw [hstep] at hout
    · simp only [hstep]
      exact .wait (behind_framer s g) (by simpa using hout) rfl
    · simp only [hstep]
      exact .after (behind_framer s g) (climb_cases fs (resOf .packet o) { s with sp := g }).ofOp

/-- What following the events comes to: the operation ends, or it waits with no event left. -/
theorem follow_ofOp (es : List Event) (fs : List Frame) {s : State} (hread : s.reading = false) (hst : s.sp.st ≠ .idle)
    (hrx : s.chan.rx = es) : (follow es fs s).OfOp s [] := by
  induction es generalizing fs s with
  | nil => exact .wait (.refl s) hst hrx
  | cons e es ih =>
    have hheard := hear_ofOp e fs (s := s.withRx es) hread hst
    unfold follow
    generalize hear e fs (s.withRx es) = x at hheard
    cases hheard with
    | done hb => exact .done ((behind_withRx es s).trans hb)
    | wait hb hst' hrx' =>
      exact .after ((behind_withRx es s).trans hb) (ih _ (hb.reading.trans hread) hst' hrx')

/-- The machine takes an event as the operation alone does. -/
theorem takeEvent_under (e : Event) (fs after : List Frame) {s : State} (hread : s.reading = false) :
    ((Flow.wait fs s).under after).takeEvent e = (hear e fs s).under after := by
  cases e with
  | cancel => simp [State.takeEvent, hear, Flow.under, State.cancelEvent, hread]
  | chan e =>
    have htake : ((Flow.wait fs s).under after).takeEvent (.chan e) = ((Flow.wait fs s).under after).framerEvent e := by
      simp [State.takeEvent, Flow.under, hread]
    rw [htake]
    unfold hear
    dsimp only
    split <;> rename_i hstep
    · exact framerEvent_of_none hstep
    · rw [framerEvent_of_outcome (s := (Flow.wait fs s).under after) hstep rfl, ← unwind_append]
      exact unwind_aside (fun _ => some (fs ++ after)) (fs ++ after) _ { s with sp := _ }

/-- The machine goes on as the operation alone does, as far as the events in the channel carry it. -/
theorem settle_under (es : List Event) (fs after : List Frame) {s : State} (hread : s.reading = false)
    (hst : s.sp.st ≠ .idle) (hrx : s.chan.rx = es) :
    ((Flow.wait fs s).under after).settle = ((follow es fs s).under after).settle := by
  induction es generalizing fs s with
  | nil => rfl
  | cons e es ih =>
    have hheard := hear_ofOp e fs (s := s.withRx es) hread hst
    have htake := takeEvent_under e fs after (s := s.withRx es) hread
    have hwait : ((Flow.wait fs s).under after).waiting = true := by simp [Flow.under, State.waiting, State.framing, hst]
    refine (settle_of_event hwait hrx).trans ((congrArg State.settle htake).trans ?_)
    unfold follow
    generalize hear e fs (s.withRx es) = x at hheard
    cases hheard with
    | done hb => rfl
    | wait hb hst' hrx' => exact ih _ (hb.reading.trans hread) hst' hrx'

section Aside
variable (T : Option (List Frame) → Option (List Frame)) (A : Nat → Nat)

theorem climb_aside {fs : List Frame} (h : ∀ f ∈ fs, f.plain = true) (r : Res) (s : State) :
    climb fs r (s.aside T A) = (climb fs r s).map (State.aside T A) ∧ (climb fs r s).plain := by
  induction fs generalizing r s with
  | nil => exact ⟨rfl, trivial⟩
  | cons f fs ih =>
    obtain ⟨hf, hfs⟩ := List.forall_mem_cons.mp h
    have hplain := resume_plain hf r s
    simp only [climb, resume_aside T A f r s (.inl hf)]
    cases hx : f.resume r s with
    | done r' t => exact ih hfs r' t
    | wait fs' t =>
      rw [hx] at hplain
      exact ⟨rfl, fun g hg => (List.mem_append.mp hg).elim (hplain g) (hfs g)⟩

theorem hear_aside (e : Event) {fs : List Frame} (h : ∀ f ∈ fs, f.plain = true) (s : State) :
    hear e fs (s.aside T A) = (hear e fs s).map (State.aside T A) ∧ (hear e fs s).plain := by
  cases e with
  | cancel =>
    refine ⟨congrArg (Flow.wait fs) ?_, h⟩
    cases hread : s.reading <;> simp only [State.cancelEvent, State.aside_reading, hread] <;> rfl
  | chan e =>
    simp only [hear, State.aside_sp]
    rcases s.sp.step e with ⟨g, _ | o⟩
    · exact ⟨rfl, h⟩
    · exact climb_aside T A h _ { s with sp := g }

theorem follow_aside (es : List Event) {fs : List Frame} (h : ∀ f ∈ fs, f.plain = true) (s : State) :
    follow es fs (s.aside T A) = (follow es fs s).map (State.aside T A) := by
  induction es generalizing fs s with
  | nil => rfl
  | cons e es ih =>
    obtain ⟨hcomm, hplain⟩ := hear_aside T A e h (s.withRx es)
    unfold follow
    rw [show (s.aside T A).withRx es = (s.withRx es).aside T A from rfl, hcomm]
    generalize hear e fs (s.withRx es) = x at hplain
    cases x with
    | done r t => rfl
    | wait fs' t => exact ih hplain t

end Aside

/-! One attempt, and the loop of attempts. -/

/-- One attempt: the operation alone, its number in the attempt counter once it waits. -/
def attemptFlow (op : HostOp) (attempt : Nat) (s : State) : Flow :=
  match launch op [] s with
  | .done r t => .done r t
  | .wait fs t => follow t.chan.rx fs (t.aside (fun _ => none) fun _ => attempt)

/-- Whether `RETRY` repeats after this outcome, if attempts are left (44_host_protocols R196). -/
def Res.again (p : Params) (choice : Retryable) : Res → Bool
  | .ok _ => false
  | .error e => retries p choice e

theorem launch_append (op : HostOp) (after : List Frame) (s : State) :
    launch op after s =
      match launch op [] s with
      | .wait fs t => .wait (fs ++ after) t
      | .done r t => .done r t := by
  unfold launch
  rcases startHost op s with ⟨v | e, t⟩ | ⟨fs, t⟩ <;> simp

theorem attemptOnce_of_wait {op : HostOp} {s t : State} {fs : List Frame} (h : launch op [] s = .wait fs t)
    (policy : RetryPolicy) (attempt : Nat) :
    attemptOnce op policy attempt s = .wait (fs ++ [.retry op policy]) { t with attempt := attempt } := by
  rw [attemptOnce, launch_append, h]

theorem attemptOnce_of_done {op : HostOp} {s t : State} {r : Res} (h : launch op [] s = .done r t)
    (policy : RetryPolicy) (attempt : Nat) : attemptOnce op policy attempt s = .done r t := by
  rw [attemptOnce, launch_append, h]

theorem attempts_of_wait {op : HostOp} {policy : RetryPolicy} {attempt : Nat} {s t : State} {fs : List Frame}
    (h : attemptOnce op policy attempt s = .wait fs t) (left : Nat) : attempts op policy left attempt s = .wait fs t := by
  cases left with
  | zero => exact h
  | succ left => rw [attempts, h]

theorem attempts_of_done {op : HostOp} {policy : RetryPolicy} {attempt : Nat} {s t : State} {r : Res}
    (h : attemptOnce op policy attempt s = .done r t) (left : Nat) :
    attempts op policy left attempt s =
      if r.again t.params policy.retryable = true ∧ 0 < left then attempts op policy (left - 1) (attempt + 1) t
      else .done r t := by
  cases left with
  | zero => simpa [attempts] using h
  | succ left =>
    rw [attempts, h]
    cases r <;> simp [Res.again]

/-- A flow that the frames have passed on goes on as one that an instruction begins. -/
theorem under_nil_settle {s : State} {x : Flow} (h : FlowOf s x) (hread : s.reading = false) (htask : s.task = none) :
    (x.under []).settle = State.proceed x := by
  obtain ⟨-, fs, t, ht, rfl⟩ | ⟨r, t, ht, rfl⟩ := h
  · simp only [Flow.under, List.append_nil, State.proceed]
  · have hb := ht.behind.1
    simp only [Flow.under, State.unwind, task_cleared (hb.task.trans htask), State.proceed]
    exact settle_of_not_waiting _ (by simp [State.waiting, State.framing, hb.task, htask, hb.reading, hread])

/-- The frame of `RETRY` takes the outcome of an attempt: the next attempt, or the caller (44_host_protocols R196). -/
theorem unwind_retry {op : HostOp} {policy : RetryPolicy} {left : Nat} {s : State} (hread : s.reading = false)
    (hmax : policy.max = left + s.attempt) (r : Res) :
    (State.unwind [.retry op policy] r s).settle =
      if r.again s.params policy.retryable = true ∧ 0 < left then
        State.proceed (attempts op policy (left - 1) (s.attempt + 1) { s with task := none })
      else State.report .owner r { s with task := none } := by
  have hflow := resume_cases (.retry op policy) r { s with task := none }
  calc (State.unwind [.retry op policy] r s).settle
      = (State.unwind [.retry op policy] r { s with task := none }).settle :=
        congrArg State.settle (unwind_aside (fun _ => none) _ r s).symm
    _ = ((Frame.resume (.retry op policy) r { s with task := none }).under []).settle := rfl
    _ = State.proceed (Frame.resume (.retry op policy) r { s with task := none }) := under_nil_settle hflow hread rfl
    _ = _ := by
      cases r with
      | ok v => rfl
      | error e =>
        have hleft : s.attempt < policy.max ↔ 0 < left := by omega
        have hrest : policy.max - s.attempt - 1 = left - 1 := by omega
        simp only [Frame.resume, Res.again, hleft, hrest]
        exact apply_ite State.proceed _ _ _

/-- What an attempt that waits has become of: the frames of the operation alone, above that of `RETRY`. -/
theorem proceed_attempts_of_wait {op : HostOp} {s t : State} {fs : List Frame} (hread : s.reading = false)
    (h : launch op [] s = .wait fs t) (policy : RetryPolicy) (left attempt : Nat) :
    State.proceed (attempts op policy left attempt s) = ((attemptFlow op attempt s).under [.retry op policy]).settle := by
  have hop := (launch_cases op [] s).ofOp
  rw [h] at hop
  cases hop with
  | wait hb hst hrx =>
    rw [attempts_of_wait (attemptOnce_of_wait h policy attempt)]
    simp only [attemptFlow, h]
    exact settle_under t.chan.rx fs [.retry op policy] (s := t.aside (fun _ => none) fun _ => attempt)
      (hb.reading.trans hread) hst rfl

theorem attemptFlow_cases (op : HostOp) (attempt : Nat) {s : State} (hread : s.reading = false) :
    (∃ r t, launch op [] s = .done r t ∧ attemptFlow op attempt s = .done r t ∧ Behind s t) ∨
    (∃ fs t, launch op [] s = .wait fs t ∧ (attemptFlow op attempt s).OfOp { s with task := none } [] ∧
      attemptFlow op attempt s = (attemptFlow op attempt s).map (State.aside id fun _ => attempt)) := by
  have hop := (launch_cases op [] s).ofOp
  have hplain := launch_plain op (after := []) (by simp) s
  unfold attemptFlow
  cases hx : launch op [] s with
  | done r t =>
    rw [hx] at hop
    cases hop with
    | done hb => exact .inl ⟨r, t, rfl, rfl, hb⟩
  | wait fs t =>
    rw [hx] at hop hplain
    cases hop with
    | wait hb hst hrx =>
      have hbehind : Behind { s with task := none } (t.aside (fun _ => none) fun _ => attempt) :=
        ⟨hb.reading, rfl, hb.params, hb.device, hb.reports⟩
      exact .inr ⟨fs, t, rfl, .after hbehind (follow_ofOp _ fs (hb.reading.trans hread) hst rfl),
        follow_aside id (fun _ => attempt) _ hplain (t.aside (fun _ => none) fun _ => attempt)⟩

theorem attemptFlow_behind {op : HostOp} {attempt : Nat} {s t : State} {r : Res} (hread : s.reading = false)
    (htask : s.task = none) (h : attemptFlow op attempt s = .done r t) : Behind s t := by
  obtain ⟨r', t', -, h', hb⟩ | ⟨-, -, -, hop, -⟩ := attemptFlow_cases op attempt hread
  · cases h.symm.trans h'
    exact hb
  · rw [h] at hop
    cases hop with
    | done hb => exact .trans (t := { s with task := none }) ⟨rfl, htask.symm, rfl, rfl, rfl⟩ hb

/-- An attempt that ends: `RETRY` repeats it, or its outcome is the caller's. -/
theorem proceed_attempts_of_done {op : HostOp} {policy : RetryPolicy} {left attempt : Nat} {s t : State} {r : Res}
    (hread : s.reading = false) (hmax : policy.max = left + attempt) (h : attemptFlow op attempt s = .done r t) :
    State.proceed (attempts op policy left attempt s) =
      if r.again t.params policy.retryable = true ∧ 0 < left then
        State.proceed (attempts op policy (left - 1) (attempt + 1) t)
      else t.report .owner r := by
  obtain ⟨r', t', hlaunch, h', -⟩ | ⟨fs, t', hlaunch, hop, hmap⟩ := attemptFlow_cases op attempt hread
  · cases h.symm.trans h'
    rw [attempts_of_done (attemptOnce_of_done hlaunch policy attempt)]
    exact apply_ite State.proceed _ _ _
  · rw [proceed_attempts_of_wait hread hlaunch, h]
    rw [h] at hop hmap
    cases hop with
    | done hb =>
      have hattempt : t.attempt = attempt := congrArg State.attempt (Flow.done.inj hmap).2
      have hretry := unwind_retry (op := op) (hb.reading.trans hread) (hattempt ▸ hmax) r
      rwa [task_cleared hb.task, hattempt] at hretry

/-- An attempt that waits goes on waiting in the machine, too. -/
theorem settle_under_of_wait {s t : State} {fs after : List Frame} (h : (Flow.wait fs t).OfOp s []) :
    ((Flow.wait fs t).under after).settle.task.isSome = true := by
  cases h with
  | wait _ _ hrx => rw [settle_of_empty ((Flow.wait fs t).under after) hrx]; rfl

theorem proceed_attempts_of_follow {op : HostOp} {attempt : Nat} {s t : State} {fs : List Frame} (hread : s.reading = false)
    (h : attemptFlow op attempt s = .wait fs t) (policy : RetryPolicy) (left : Nat) :
    (State.proceed (attempts op policy left attempt s)).task.isSome = true := by
  obtain ⟨r', t', -, h', -⟩ | ⟨fs, t', hlaunch, hop, -⟩ := attemptFlow_cases op attempt hread
  · cases h.symm.trans h'
  · rw [proceed_attempts_of_wait hread hlaunch, h]
    exact settle_under_of_wait (h ▸ hop)

theorem launch_attempt {op : HostOp} {s t : State} {fs : List Frame} (h : launch op [] s = .wait fs t) :
    t.attempt = s.attempt := by
  have hmap : launch op [] s = (launch op [] s).map (State.aside id fun _ => s.attempt) :=
    launch_aside id (fun _ => s.attempt) op [] s
  rw [h] at hmap
  exact (congrArg State.attempt (Flow.wait.inj hmap).2).trans rfl

/-- The operation by itself is one attempt of it, but for the attempt counter. -/
theorem invoke_of_wait {op : HostOp} {s t : State} {fs : List Frame} (hread : s.reading = false) (htask : s.task = none)
    (h : launch op [] s = .wait fs t) : s.invoke op = ((attemptFlow op s.attempt s).under []).settle := by
  have hop := (launch_cases op [] s).ofOp
  rw [h] at hop
  cases hop with
  | wait hb hst hrx =>
    have hself : t.aside (fun _ => none) (fun _ => s.attempt) = t := by
      simp only [State.aside, ← launch_attempt h, ← hb.task.trans htask]
    have hwait : (Flow.wait fs t).under [] = { t with task := some fs } := by simp [Flow.under]
    simp only [State.invoke, h, State.proceed, attemptFlow, hself, ← hwait]
    exact settle_under t.chan.rx fs [] (hb.reading.trans hread) hst rfl

theorem invoke_of_done {op : HostOp} {s t : State} {r : Res} (hread : s.reading = false) (htask : s.task = none)
    (h : attemptFlow op s.attempt s = .done r t) : s.invoke op = t.report .owner r := by
  have hb := attemptFlow_behind hread htask h
  obtain ⟨r', t', hlaunch, h', -⟩ | ⟨fs, t', hlaunch, -, -⟩ := attemptFlow_cases op s.attempt hread
  · cases h.symm.trans h'
    rw [State.invoke, hlaunch, State.proceed]
  · rw [invoke_of_wait hread htask hlaunch, h, Flow.under, State.unwind, task_cleared (hb.task.trans htask)]
    exact settle_of_not_waiting _ (by simp [State.waiting, State.framing, hb.task, htask, hb.reading, hread])

theorem invoke_of_follow {op : HostOp} {s t : State} {fs : List Frame} (hread : s.reading = false) (htask : s.task = none)
    (h : attemptFlow op s.attempt s = .wait fs t) : (s.invoke op).task.isSome = true := by
  obtain ⟨r', t', -, h', -⟩ | ⟨fs, t', hlaunch, hop, -⟩ := attemptFlow_cases op s.attempt hread
  · cases h.symm.trans h'
  · rw [invoke_of_wait hread htask hlaunch, h]
    exact settle_under_of_wait (h ▸ hop)

/-- An attempt by another number, from another attempt counter, is the same but for the counter. -/
theorem attemptFlow_aside (op : HostOp) (j k a : Nat) (s : State) :
    ∃ b, attemptFlow op k (s.aside id fun _ => a) = (attemptFlow op j s).map (State.aside id fun _ => b) := by
  have hplain := launch_plain op (after := []) (by simp) s
  unfold attemptFlow
  rw [launch_aside]
  cases hx : launch op [] s with
  | done r t => exact ⟨a, rfl⟩
  | wait fs t =>
    rw [hx] at hplain
    exact ⟨k, follow_aside id (fun _ => k) t.chan.rx hplain (t.aside (fun _ => none) fun _ => j)⟩

/-- The loop of attempts depends on how many are left, not on their numbers, where it ends without another wait. -/
theorem proceed_attempts_renumber {op : HostOp} {p q : RetryPolicy} (hpq : p.retryable = q.retryable) {left j k : Nat}
    (hp : p.max = left + j) (hq : q.max = left + k) {s : State} (a : Nat) (hread : s.reading = false) (htask : s.task = none)
    (hend : (State.proceed (attempts op p left j s)).task = none) :
    ∃ b, State.proceed (attempts op q left k (s.aside id fun _ => a)) =
      (State.proceed (attempts op p left j s)).aside id fun _ => b := by
  induction left using Nat.strong_induction_on generalizing j k s a with
  | _ left ih =>
    obtain ⟨b, hb⟩ := attemptFlow_aside op j k a s
    cases hx : attemptFlow op j s with
    | wait fs t => simp [Option.isSome_iff_ne_none.mp (proceed_attempts_of_follow hread hx p left)] at hend
    | done r t =>
      rw [hx] at hb
      have hbehind := attemptFlow_behind hread htask hx
      rw [proceed_attempts_of_done (s := s.aside _ _) hread hq hb]
      rw [proceed_attempts_of_done hread hp hx] at hend ⊢
      rw [State.aside_params, ← hpq]
      split at hend <;> rename_i hagain
      · rw [if_pos hagain, if_pos hagain]
        exact ih (left - 1) (by omega) (by omega) (by omega) b (hbehind.reading.trans hread) (hbehind.task.trans htask) hend
      · rw [if_neg hagain, if_neg hagain]
        exact ⟨b, rfl⟩

/-! The instructions. -/

theorem exec_retry {op : HostOp} {policy : RetryPolicy} {s : State} (hmax : policy.max ≠ 0) (h : s.objection op = none) :
    exec (.retry op policy) s = .next (State.proceed (attempts op policy (policy.max - 1) 1 s)) := by
  simp only [exec, execRetry, if_neg hmax, h]

theorem exec_retry_next {op : HostOp} {policy : RetryPolicy} {s t : State} (h : exec (.retry op policy) s = .next t) :
    s.objection op = none ∧ t = State.proceed (attempts op policy (policy.max - 1) 1 s) := by
  simp only [exec, execRetry] at h
  split at h
  · cases h
  · split at h
    · cases h
    · rename_i hobj
      cases h
      exact ⟨hobj, rfl⟩

theorem perform_next {op : HostOp} {s t : State} (h : s.perform op = .next t) :
    s.objection op = none ∧ t = s.invoke op := by
  unfold State.perform at h
  split at h
  · cases h
  · rename_i hobj
    cases h
    exact ⟨hobj, rfl⟩

/-- A command that has no row of its own is the plain exchange (42_extended_packet R145). -/
theorem perform_command_of_other {code : Byte} (h : code ∉ namedSubs) (payload : Bytes) (c : Checks) (s : State) :
    s.perform (.command code payload c) = s.perform (.xchg code payload c) := by
  have hstatus : code ≠ 0x22 := fun hc => h (hc ▸ by decide)
  have hexec : code ≠ 0x18 := fun hc => h (hc ▸ by decide)
  have hcap : subCapability code = none := by
    rw [subCapability, if_neg hstatus, if_neg hexec, if_neg (by simpa using h)]
  have hkeep : keepFrames code = [] := if_neg hstatus
  simp only [State.perform, State.objection, chunked, opCapability, hcap, State.invoke, launch, startHost, hkeep, inSession]
  rfl

theorem subInstr_other {code : Byte} (h : code ∉ namedSubs) (payload : Bytes) (c : Checks) :
    subInstr code payload c = .subOther code payload c := by
  simp only [namedSubs, List.mem_cons, List.not_mem_nil, or_false, not_or] at h
  simp only [subInstr, h, if_false]

theorem exec_subInstr (code : Byte) (payload : Bytes) (c : Checks) (s : State) :
    exec (subInstr code payload c) s = s.perform (.command code payload c) := by
  by_cases h : code ∈ namedSubs
  · simp only [namedSubs, List.mem_cons, List.not_mem_nil, or_false] at h
    rcases h with rfl | rfl | rfl | rfl | rfl | rfl | rfl | rfl | rfl | rfl | rfl | rfl | rfl | rfl <;> rfl
  · rw [subInstr_other h, perform_command_of_other h]
    rfl

/-- The row of an operation is one run of it. -/
theorem exec_opInstr {op : HostOp} {i : Instr} (h : opInstr op = some i) (s : State) : exec i s = s.perform op := by
  cases op
  case command code payload c =>
    cases h
    exact exec_subInstr code payload c s
  case status => cases h
  case boot => cases h
  all_goals cases h; rfl

/-- One attempt that `RETRY` is allowed, and its outcome (44_host_protocols R196). -/
theorem exec_retry_once {op : HostOp} {choice : Retryable} {r : Res} {s t : State} (hread : s.reading = false)
    (htask : s.task = none) (h : exec (.retry op ⟨1, choice⟩) s = .next t) (hend : t.task = none)
    (hreports : t.reports = s.reports ++ [⟨.owner, r⟩]) :
    ∃ u, attemptFlow op 1 s = .done r u ∧ Behind s u ∧ t = u.report .owner r := by
  obtain ⟨-, rfl⟩ := exec_retry_next h
  cases hx : attemptFlow op 1 s with
  | wait fs u => simp [Option.isSome_iff_ne_none.mp (proceed_attempts_of_follow hread hx _ _)] at hend
  | done r' u =>
    have hb := attemptFlow_behind hread htask hx
    have hrun : State.proceed (attempts op ⟨1, choice⟩ 0 1 s) = u.report .owner r' :=
      (proceed_attempts_of_done hread rfl hx).trans (if_neg (by simp))
    obtain rfl : r' = r := by simpa [hrun, hb.reports] using hreports
    exact ⟨u, rfl, hb, hrun⟩

/-- With more attempts allowed, an outcome that is not repeated changes nothing. -/
theorem exec_retry_more {op : HostOp} {choice : Retryable} {r : Res} {s u : State} (hread : s.reading = false)
    (hobj : s.objection op = none) (hflow : attemptFlow op 1 s = .done r u) (hagain : r.again u.params choice = false)
    (n : Nat) : exec (.retry op ⟨n + 1, choice⟩) s = .next (u.report .owner r) := by
  rw [exec_retry (Nat.succ_ne_zero n) hobj]
  exact congrArg _ ((proceed_attempts_of_done hread rfl hflow).trans (if_neg (by simp [hagain])))

/-- After an outcome that is repeated, the rest is `RETRY` with one attempt less, from the state that the attempt left. -/
theorem exec_retry_rest {op : HostOp} {choice : Retryable} {r : Res} {s u v : State} (hread : s.reading = false)
    (htask : s.task = none) (hobj : s.objection op = none) (hflow : attemptFlow op 1 s = .done r u)
    (hagain : r.again u.params choice = true) {n : Nat} (h : exec (.retry op ⟨n + 1, choice⟩) u = .next v)
    (hend : v.task = none) : ∃ a, exec (.retry op ⟨n + 2, choice⟩) s = .next { v with attempt := a } := by
  obtain ⟨-, rfl⟩ := exec_retry_next h
  have hb := attemptFlow_behind hread htask hflow
  have hfirst : State.proceed (attempts op ⟨n + 2, choice⟩ (n + 1) 1 s) =
      State.proceed (attempts op ⟨n + 2, choice⟩ n 2 u) :=
    (proceed_attempts_of_done hread rfl hflow).trans (if_pos ⟨hagain, Nat.succ_pos n⟩)
  obtain ⟨a, ha⟩ := proceed_attempts_renumber (p := ⟨n + 1, choice⟩) (q := ⟨n + 2, choice⟩) rfl (left := n) rfl rfl u.attempt
    (hb.reading.trans hread) (hb.task.trans htask) hend
  refine ⟨a, ?_⟩
  rw [exec_retry (Nat.succ_ne_zero _) hobj]
  exact congrArg _ (hfirst.trans ha)

/-- One attempt that `RETRY` is allowed is the operation itself, but for the attempt counter. -/
theorem exec_retry_one {op : HostOp} {i : Instr} (choice : Retryable) {s t : State} (hread : s.reading = false)
    (htask : s.task = none) (hop : opInstr op = some i) (h : exec i s = .next t) (hend : t.task = none) :
    ∃ a, exec (.retry op ⟨1, choice⟩) s = .next { t with attempt := a } := by
  rw [exec_opInstr hop] at h
  obtain ⟨hobj, rfl⟩ := perform_next h
  obtain ⟨a, ha⟩ := attemptFlow_aside op s.attempt 1 s.attempt s
  cases hx : attemptFlow op s.attempt s with
  | wait fs u => simp [Option.isSome_iff_ne_none.mp (invoke_of_follow hread htask hx)] at hend
  | done r u =>
    rw [hx] at ha
    refine ⟨a, ?_⟩
    rw [exec_retry one_ne_zero hobj, invoke_of_done hread htask hx]
    exact congrArg _ ((proceed_attempts_of_done (left := 0) hread rfl ha).trans (if_neg (by simp)))

/-! `RETRY` of an exchange. -/

/-- The framer after a receive that ended with an error: `IDLE`, nothing held (41_simple_packet R111, R112). -/
def Framer.quiet (f : Framer) : Framer := { f with st := .idle, raw := [] }

/-- The state after `n` attempts of an exchange, the last one numbered `a`, that left the framer `f` and the events `rest`. -/
def State.exchanged (n : Nat) (wire : Bytes) (f : Framer) (rest : List Event) (a : Nat) (s : State) : State :=
  { s with
    sp := f, task := none, querying := false, attempt := a
    chan := { s.chan with
      rx := rest, tx := s.chan.tx ++ (List.replicate n wire).flatten, writes := s.chan.writes.drop n } }

/-- The state with a request written and the framer armed for its reply (42_extended_packet R129). -/
def State.asked (wire : Bytes) (s : State) : State :=
  { s with
    sp := s.sp.arm, querying := s.ft.isNone
    chan := { s.chan with tx := s.chan.tx ++ wire, writes := s.chan.writes.drop 1 } }

/-- The state in which an operation waits in these frames, with this number in the attempt counter. -/
def State.awaits (fs : List Frame) (attempt : Nat) (s : State) : State := { s with task := some fs, attempt := attempt }

theorem accepts_add {s : State} {m n : Nat} :
    s.accepts (m + n) = true ↔ s.accepts m = true ∧ ((s.chan.writes.drop m).take n).all (fun a => a == .accepted) = true := by
  simp only [State.accepts, List.take_add, List.all_append, Bool.and_eq_true]

theorem chanWrite_accepted {s : State} (h : s.accepts 1 = true) (bytes : Bytes) :
    s.chanWrite bytes =
      ({ s with chan := { s.chan with tx := s.chan.tx ++ bytes, writes := s.chan.writes.drop 1 } }, true) := by
  obtain hw | ⟨n, hfailed, -⟩ := chanWrite_cases bytes s
  · rw [hw, List.drop_one]
  · obtain ⟨ws, hws⟩ := List.head?_eq_some_iff.mp hfailed
    simp [State.accepts, hws] at h

theorem exchanged_one (wire : Bytes) (f : Framer) (rest : List Event) (attempt : Nat) (s : State) :
    s.exchanged 1 wire f rest attempt = { (s.asked wire).withRx rest with
      sp := f, task := none, querying := false, attempt := attempt } := by
  simp [State.exchanged, State.asked, State.withRx]

theorem launch_xchg {sub : Byte} {payload wire : Bytes} {s : State} (hidle : s.sp.st = .idle)
    (hwire : extTx sub payload = .ok wire) (haccept : s.accepts 1 = true) (c : Checks) :
    launch (.xchg sub payload c) [] s = .wait [.decode sub c] (s.asked wire) := by
  have hstart : s.startXchg sub payload = (none, s.asked wire) := by
    simp only [State.startXchg, hidle, ne_eq, not_true_eq_false, if_false, hwire, chanWrite_accepted haccept]
    rfl
  simp [launch, startHost, State.request, hstart]

/-- An attempt of an exchange waits for the reply. -/
theorem proceed_attempts_xchg {sub : Byte} {payload wire : Bytes} {s : State} (hidle : s.sp.st = .idle)
    (hwire : extTx sub payload = .ok wire) (haccept : s.accepts 1 = true) (c : Checks) (policy : RetryPolicy)
    (left attempt : Nat) :
    State.proceed (attempts (.xchg sub payload c) policy left attempt s) =
      ((s.asked wire).awaits [.decode sub c, .retry (.xchg sub payload c) policy] attempt).settle := by
  rw [attempts_of_wait (attemptOnce_of_wait (launch_xchg hidle hwire haccept c) policy attempt)]
  rfl

/-- The event that brings the framer to its outcome ends the wait: the outcome goes up the frames. -/
theorem settle_framer_outcome {s : State} {fs : List Frame} {e : ChanEvent} {es : List Event} {g : Framer}
    {o : Except Err Packet} (hst : s.sp.st ≠ .idle) (htask : s.task = some fs) (hread : s.reading = false)
    (hrx : s.chan.rx = .chan e :: es) (hstep : s.sp.step e = (g, some o)) :
    s.settle = (State.unwind fs (resOf .packet o) (State.withRx es { s with sp := g })).settle := by
  rw [settle_framer_event hst (by simp [htask]) hread hrx, framerEvent_of_outcome (s := s.withRx es) hstep htask]
  rfl

theorem unwind_decode_reply {sub : Byte} {c : Checks} {pk : Packet} {d : Bytes} {fs : List Frame} {s : State}
    (h : extDecode s.params pk sub c = .ok d) :
    State.unwind (.decode sub c :: fs) (.ok (.packet pk)) s =
      State.unwind fs (.ok (.bytes d)) { s with querying := false } := by
  simp only [State.unwind, Frame.resume, h, resOf]

/-- An attempt of an exchange ends with the error that the next event brings. -/
theorem proceed_attempts_xchg_error {sub : Byte} {payload wire : Bytes} {c : Checks} {policy : RetryPolicy}
    {left attempt : Nat} {s : State} {e : ChanEvent} {err : Err} {es : List Event} (hidle : s.sp.st = .idle)
    (hread : s.reading = false) (hwire : extTx sub payload = .ok wire) (haccept : s.accepts 1 = true)
    (hmax : policy.max = left + attempt) (hrx : s.chan.rx = .chan e :: es)
    (hstep : s.sp.arm.step e = (s.sp.quiet, some (.error err))) :
    State.proceed (attempts (.xchg sub payload c) policy left attempt s) =
      if retries s.params policy.retryable err = true ∧ 0 < left then
        State.proceed (attempts (.xchg sub payload c) policy (left - 1) (attempt + 1)
          (s.exchanged 1 wire s.sp.quiet es attempt))
      else (s.exchanged 1 wire s.sp.quiet es attempt).report .owner (.error err) := by
  rw [proceed_attempts_xchg hidle hwire haccept, exchanged_one]
  exact (settle_framer_outcome (s := State.awaits _ attempt (s.asked wire)) (by simp [State.awaits, State.asked]) rfl hread
    hrx hstep).trans (unwind_retry (s := { State.withRx es (State.awaits _ attempt (s.asked wire)) with
      sp := s.sp.quiet, querying := false }) hread hmax (.error err))

/-- An attempt of an exchange ends with the data of the reply that the channel brings. -/
theorem proceed_attempts_xchg_reply {sub : Byte} {payload wire d : Bytes} {c : Checks} {policy : RetryPolicy}
    {left attempt : Nat} {s : State} {rest : List Event} (hidle : s.sp.st = .idle) (hread : s.reading = false)
    (hwire : extTx sub payload = .ok wire) (haccept : s.accepts 1 = true) (hmax : policy.max = left + attempt)
    (hack : (nackOfByte s.params.ackByte).isNone)
    (hfit : (acked s.params c d).length ≤ if s.params.innerLen then 32762 else 32764)
    (hlen : c.len = true → d.length = c.expectedLen)
    (hrx : s.chan.rx = byteEvents (replyOf s.params sub (acked s.params c d)) ++ rest) :
    ∃ f : Framer, f.st = .idle ∧ State.proceed (attempts (.xchg sub payload c) policy left attempt s) =
      (s.exchanged 1 wire f rest attempt).report .owner (.ok (.bytes d)) := by
  obtain ⟨pk, body, t0, t1, hpk, hreply, hcmd, hcrc, hpayload, hbody⟩ := extReply_packet sub hfit
  have hraw : replyOf s.params sub (acked s.params c d) = pk.raw := by rw [replyOf, hreply]
  have hdec : extDecode s.params pk sub c = .ok d := extDecode_reply hcmd hcrc hpayload hack hbody hlen
  obtain ⟨g, hg, -, hfeed⟩ := feed_sprx (f := s.sp.arm) rfl hpk []
  rw [List.append_nil] at hfeed
  refine ⟨g, hg, ?_⟩
  rw [proceed_attempts_xchg hidle hwire haccept, exchanged_one]
  refine (settle_feed (s := State.awaits _ attempt (s.asked wire)) (by simp [State.awaits, State.asked]) rfl hread
    (hraw ▸ hrx) hfeed).trans ?_
  exact (congrArg State.settle (unwind_decode_reply (by exact hdec))).trans
    (unwind_retry (s := { State.withRx rest (State.awaits _ attempt (s.asked wire)) with
      sp := g, querying := false }) hread hmax (.ok (.bytes d)))

/-- What time-outs of `k` attempts of an exchange leave behind, the attempt counter aside. -/
structure TimedOut (k : Nat) (wire : Bytes) (es : List Event) (s t : State) : Prop where
  idle : t.sp.st = .idle
  quiet : t.sp.quiet = s.sp.quiet
  same : t = { s with
    sp := t.sp, task := t.task, querying := t.querying, attempt := t.attempt
    chan := { s.chan with
      rx := es, tx := s.chan.tx ++ (List.replicate k wire).flatten, writes := s.chan.writes.drop k } }

theorem TimedOut.frame {k : Nat} {wire : Bytes} {es : List Event} {s t : State} (h : TimedOut k wire es s t) :
    t.reading = s.reading ∧ t.params = s.params ∧ t.chan.rx = es := by
  rw [h.same]
  exact ⟨rfl, rfl, rfl⟩

theorem TimedOut.succ {k : Nat} {wire : Bytes} {es fs : List Event} {s t : State} {a : Nat}
    (h : TimedOut k wire es (s.exchanged 1 wire s.sp.quiet fs a) t) : TimedOut (k + 1) wire es s t := by
  refine ⟨h.idle, h.quiet, h.same.trans ?_⟩
  simp [State.exchanged, List.replicate_succ]

theorem TimedOut.exchanged {k : Nat} {wire : Bytes} {es : List Event} {s t : State} (h : TimedOut k wire es s t)
    (f : Framer) (rest : List Event) (a : Nat) :
    t.exchanged 1 wire f rest a = s.exchanged (k + 1) wire f rest a := by
  rw [h.same]
  simp [State.exchanged, List.replicate_succ']

/-- Time-outs that are retried use up attempts, one each. -/
theorem attempts_after_timeouts {sub : Byte} {payload wire : Bytes} {c : Checks} {policy : RetryPolicy} {s : State}
    {k left attempt : Nat} {es : List Event} (hidle : s.sp.st = .idle) (hread : s.reading = false)
    (hwire : extTx sub payload = .ok wire) (haccept : s.accepts k = true)
    (hretry : retries s.params policy.retryable .frameSyncTimeout = true) (hmax : policy.max = k + left + attempt)
    (hrx : s.chan.rx = List.replicate k (.chan .timeout) ++ es) :
    ∃ t, TimedOut k wire es s t ∧ State.proceed (attempts (.xchg sub payload c) policy (k + left) attempt s) =
      State.proceed (attempts (.xchg sub payload c) policy left (attempt + k) t) := by
  induction k generalizing s attempt with
  | zero =>
    refine ⟨s, ⟨hidle, rfl, ?_⟩, by simp⟩
    rw [List.replicate_zero, List.nil_append] at hrx
    simp [← hrx]
  | succ k ih =>
    obtain ⟨hfirst, hrest⟩ := accepts_add.mp (Nat.add_comm k 1 ▸ haccept)
    have hone := proceed_attempts_xchg_error (c := c) (e := .timeout) (err := .frameSyncTimeout)
      (es := List.replicate k (.chan .timeout) ++ es) (left := k + 1 + left) hidle hread hwire hfirst hmax
      (hrx.trans (by rw [List.replicate_succ, List.cons_append])) rfl
    obtain ⟨t, ht, hrun⟩ := ih (s := s.exchanged 1 wire s.sp.quiet (List.replicate k (.chan .timeout) ++ es) attempt)
      (attempt := attempt + 1) rfl hread hrest hretry (by omega) rfl
    refine ⟨t, ht.succ, hone.trans ((if_pos ⟨hretry, by omega⟩).trans ?_)⟩
    rw [show k + 1 + left - 1 = k + left by omega, hrun, Nat.add_right_comm, Nat.add_assoc]

theorem extTx_of_length {payload : Bytes} (h : payload.length ≤ 32767) (sub : Byte) :
    extTx sub payload = .ok (wireOf sub payload) := by
  obtain ⟨-, henc⟩ | ⟨-, henc⟩ := extLenEnc_cases h <;> simp only [wireOf, extTx, henc]

/-- `RETRY` of an exchange after `k` time-outs: attempt `k + 1` begins, in a state that differs by what they leave behind. -/
theorem exec_retry_xchg {sub : Byte} {payload : Bytes} {policy : RetryPolicy} {s : State} {k : Nat} {es : List Event}
    (hidle : s.sp.st = .idle) (hread : s.reading = false) (hfit : payload.length ≤ 32767) (hk : k < policy.max)
    (haccept : s.accepts (k + 1) = true) (hretry : retries s.params policy.retryable .frameSyncTimeout = true)
    (hrx : s.chan.rx = List.replicate k (.chan .timeout) ++ es) (c : Checks) :
    ∃ t, TimedOut k (wireOf sub payload) es s t ∧ t.accepts 1 = true ∧
      exec (.retry (.xchg sub payload c) policy) s =
        .next (State.proceed (attempts (.xchg sub payload c) policy (policy.max - (k + 1)) (k + 1) t)) := by
  obtain ⟨hfirst, hlast⟩ := accepts_add.mp haccept
  have hleft : policy.max - 1 = k + (policy.max - (k + 1)) := by omega
  obtain ⟨t, ht, hrun⟩ := attempts_after_timeouts (c := c) (left := policy.max - (k + 1)) (attempt := 1) hidle hread
    (extTx_of_length hfit sub) hfirst hretry (by omega) hrx
  refine ⟨t, ht, ?_, ?_⟩
  · rw [State.accepts, ht.same]
    exact hlast
  · rw [exec_retry (by omega) rfl, hleft, hrun, Nat.add_comm 1]

/-- Attempt `k + 1` of an exchange gets its reply. -/
theorem exec_retry_xchg_reply {sub : Byte} {payload d : Bytes} {c : Checks} {policy : RetryPolicy} {k : Nat}
    {rest : List Event} {s : State} (hidle : s.sp.st = .idle) (hread : s.reading = false) (hfit : payload.length ≤ 32767)
    (hk : k < policy.max) (haccept : s.accepts (k + 1) = true)
    (hretry : retries s.params policy.retryable .frameSyncTimeout = true)
    (hack : (nackOfByte s.params.ackByte).isNone)
    (hreply : (acked s.params c d).length ≤ if s.params.innerLen then 32762 else 32764)
    (hlen : c.len = true → d.length = c.expectedLen)
    (hrx : s.chan.rx = List.replicate k (.chan .timeout) ++
      (byteEvents (replyOf s.params sub (acked s.params c d)) ++ rest)) :
    ∃ f : Framer, f.st = .idle ∧ exec (.retry (.xchg sub payload c) policy) s =
      .next ((s.exchanged (k + 1) (wireOf sub payload) f rest (k + 1)).report .owner (.ok (.bytes d))) := by
  obtain ⟨t, ht, haccept', hrun⟩ := exec_retry_xchg hidle hread hfit hk haccept hretry hrx c
  obtain ⟨hreading, hparams, hrx'⟩ := ht.frame
  obtain ⟨f, hf, hlast⟩ := proceed_attempts_xchg_reply (d := d) (c := c) (policy := policy)
    (left := policy.max - (k + 1)) (attempt := k + 1) (rest := rest) ht.idle (hreading.trans hread)
    (extTx_of_length hfit sub) haccept' (by omega) (hparams ▸ hack) (hparams ▸ hreply) hlen (hparams ▸ hrx')
  exact ⟨f, hf, by rw [hrun, hlast, ht.exchanged]⟩

/-- Attempt `k + 1` of an exchange meets an error that ends `RETRY`. -/
theorem exec_retry_xchg_error {sub : Byte} {payload : Bytes} {policy : RetryPolicy} {k : Nat} {e : ChanEvent} {err : Err}
    {rest : List Event} {s : State} (hidle : s.sp.st = .idle) (hread : s.reading = false) (hfit : payload.length ≤ 32767)
    (hk : k < policy.max) (haccept : s.accepts (k + 1) = true)
    (hretry : retries s.params policy.retryable .frameSyncTimeout = true)
    (hrx : s.chan.rx = List.replicate k (.chan .timeout) ++ .chan e :: rest)
    (hstep : ∀ f : Framer, f.arm.step e = (f.quiet, some (.error err)))
    (hend : retries s.params policy.retryable err = false ∨ policy.max = k + 1) (c : Checks) :
    exec (.retry (.xchg sub payload c) policy) s =
      .next ((s.exchanged (k + 1) (wireOf sub payload) s.sp.quiet rest (k + 1)).report .owner (.error err)) := by
  obtain ⟨t, ht, haccept', hrun⟩ := exec_retry_xchg hidle hread hfit hk haccept hretry hrx c
  obtain ⟨hreading, hparams, hrx'⟩ := ht.frame
  have hlast := proceed_attempts_xchg_error (c := c) (policy := policy) (left := policy.max - (k + 1))
    (attempt := k + 1) (es := rest) ht.idle (hreading.trans hread) (extTx_of_length hfit sub) haccept' (by omega) hrx'
    (hstep t.sp)
  have hstop : ¬ (retries t.params policy.retryable err = true ∧ 0 < policy.max - (k + 1)) := by
    rintro ⟨hagain, hleft⟩
    rcases hend with hend | hend
    · rw [hparams, hend] at hagain
      cases hagain
    · omega
  rw [hrun, hlast, if_neg hstop, ht.exchanged, ht.quiet]

/-- Settles O48: of the exchange, by the time-outs before its last attempt and that attempt; of any operation, because an
attempt runs as the operation alone and the loop of attempts only counts those left. -/
theorem retryRepeatsTheWholeOperation : Obligations.RetryRepeatsTheWholeOperation := by
  refine ⟨fun sub payload d c policy k rest s hidle hread hack hfit hreply hlen hk hretry =>
      ⟨fun haccept hrx => ?_, fun haccept hrx => ?_, fun haccept hfail hrx => ?_⟩,
    fun op choice r s t hidle hread htask h hend hreports => ?_,
    fun op i choice s t hidle hread htask hop h hend => exec_retry_one choice hread htask hop h hend⟩
  · exact exec_retry_xchg_reply hidle hread hfit hk haccept hretry hack hreply hlen (by rw [hrx, List.append_assoc])
  · obtain ⟨m, hm⟩ : ∃ m, policy.max = m + 1 := ⟨policy.max - 1, by omega⟩
    rw [hm] at haccept hrx ⊢
    rw [List.replicate_succ', List.append_assoc] at hrx
    exact exec_retry_xchg_error hidle hread hfit (by omega) haccept hretry hrx (fun _ => rfl) (.inr hm) c
  · exact exec_retry_xchg_error hidle hread hfit hk haccept hretry hrx (fun _ => rfl) (.inl hfail) c
  · obtain ⟨hobj, -⟩ := exec_retry_next h
    obtain ⟨u, hflow, hb, rfl⟩ := exec_retry_once hread htask h hend hreports
    have hself : ({ u.report .owner r with reports := s.reports } : State) = u := by rw [← hb.reports]; rfl
    refine ⟨fun n hstop => exec_retry_more hread hobj hflow ?_ n, fun e n v hr hretry hrest hend' => ?_⟩
    · rw [hb.params]
      cases r with
      | ok v => rfl
      | error e => exact hstop e rfl
    · subst hr
      rw [hself] at hrest
      exact exec_retry_rest hread htask hobj hflow (hb.params ▸ hretry) hrest hend'

end Sys2Proof.Machine
end

section
/-! The two sides of the block (O60): the stream operations write no register of the request side, and the other
instructions write none of the stream's but the cancel flag (43_mux_stream R160, 20_memory R56). -/

namespace Sys2Proof.Machine

/-! The shared operations. -/

/-- A write to the channel, with its report, changes the channel and the outcomes only. -/
theorem writeOut_frame (c : Caller) (bytes : Bytes) (s : State) :
    ∃ ch r, s.writeOut c bytes = State.report c r { s with chan := ch } := by
  unfold State.writeOut
  obtain h | ⟨n, -, h⟩ := chanWrite_cases bytes s <;> rw [h]
  · exact ⟨_, _, rfl⟩
  · exact ⟨_, _, rfl⟩

/-- What taking an event keeps while an operation waits, letting the waiting operations go on keeps. -/
theorem drain_induction {P : State → Prop}
    (hevent : ∀ (e : Event) (rx : List Event) (t : State), t.waiting = true → P t → P ((t.withRx rx).takeEvent e))
    (es : List Event) {s : State} (h : P s) : P (State.drain es s) := by
  induction es generalizing s with
  | nil => exact h
  | cons e es ih =>
    unfold State.drain
    split <;> rename_i hw
    · exact ih (hevent e es s hw h)
    · exact h

theorem settle_induction {P : State → Prop}
    (hevent : ∀ (e : Event) (rx : List Event) (t : State), t.waiting = true → P t → P ((t.withRx rx).takeEvent e))
    {s : State} (h : P s) : P s.settle := drain_induction hevent _ h

/-! The request side. -/

/-- The registers of the request side are in `t` as in `s`: the framer, the operation that waits for it, the host's state and
the CRC registers. -/
structure RequestsKept (s t : State) : Prop where
  sp : t.sp = s.sp
  task : t.task = s.task
  ft : t.ft = s.ft
  snapshot : t.snapshot = s.snapshot
  querying : t.querying = s.querying
  attempt : t.attempt = s.attempt
  legacy : t.legacy = s.legacy
  acc16 : t.acc16 = s.acc16
  acc32 : t.acc32 = s.acc32

theorem RequestsKept.trans {s t u : State} (h : RequestsKept s t) (k : RequestsKept t u) : RequestsKept s u :=
  ⟨k.sp.trans h.sp, k.task.trans h.task, k.ft.trans h.ft, k.snapshot.trans h.snapshot, k.querying.trans h.querying,
    k.attempt.trans h.attempt, k.legacy.trans h.legacy, k.acc16.trans h.acc16, k.acc32.trans h.acc32⟩

/-- The registers that the stream operations write. -/
theorem requestsKept_stream (s : State) (m : Mux) (reading : Bool) (ch : Channel) (rs : List Report) :
    RequestsKept s { s with mux := m, reading := reading, chan := ch, reports := rs } :=
  ⟨rfl, rfl, rfl, rfl, rfl, rfl, rfl, rfl, rfl⟩

theorem RequestsKept.refl (s : State) : RequestsKept s s := requestsKept_stream s s.mux s.reading s.chan s.reports

theorem readerPoll_requestsKept (s : State) (m : Mux) : RequestsKept s (State.readerPoll { s with mux := m }) := by
  obtain ⟨buf, ⟨f, h⟩ | ⟨-, h⟩ | ⟨-, -, h⟩⟩ := readerPoll_cases { s with mux := m } <;> rw [h] <;>
    exact requestsKept_stream s _ _ s.chan _

theorem readerEvent_requestsKept (e : ChanEvent) (s : State) : RequestsKept s (s.readerEvent e) := by
  cases e with
  | byte b => exact readerPoll_requestsKept s _
  | timeout => exact .refl s
  | fail => exact requestsKept_stream s _ _ s.chan _

theorem cancelEvent_requestsKept (s : State) : RequestsKept s s.cancelEvent := by
  unfold State.cancelEvent
  dsimp only
  split <;> exact requestsKept_stream s _ _ s.chan _

/-- With no operation waiting for the framer, an event that is taken is the stream reader's. -/
theorem takeEvent_requestsKept (e : Event) {s : State} (htask : s.task = none) (hw : s.waiting = true) :
    RequestsKept s (s.takeEvent e) := by
  have hframing : s.framing = false := by simp [State.framing, htask]
  have hread : s.reading = true := by simpa [State.waiting, hframing] using hw
  cases e with
  | cancel => exact cancelEvent_requestsKept s
  | chan e => simpa [State.takeEvent, hframing, hread] using readerEvent_requestsKept e s

theorem settle_requestsKept {s : State} (htask : s.task = none) : RequestsKept s s.settle := by
  refine settle_induction (P := RequestsKept s) (fun e rx t hw h => ?_) (.refl s)
  have hrx : RequestsKept t (t.withRx rx) := requestsKept_stream t t.mux t.reading _ t.reports
  exact (h.trans hrx).trans (takeEvent_requestsKept e (h.task.trans htask) hw)

theorem execMuxSub_requestsKept {topic : Bytes} {s t : State} (h : execMuxSub topic s = .next t) : RequestsKept s t := by
  unfold execMuxSub at h
  split at h <;> cases h <;> exact requestsKept_stream s _ s.reading s.chan _

theorem execMuxUnsub_requestsKept {topic : Bytes} {s t : State} (h : execMuxUnsub topic s = .next t) :
    RequestsKept s t := by
  unfold execMuxUnsub at h
  split at h <;> cases h <;> exact requestsKept_stream s _ s.reading s.chan _

theorem execMuxRead_requestsKept {s t : State} (htask : s.task = none) (h : execMuxRead s = .next t) :
    RequestsKept s t := by
  unfold execMuxRead at h
  split at h <;> cases h
  have hpoll : RequestsKept s s.readerPoll := readerPoll_requestsKept s s.mux
  exact hpoll.trans (settle_requestsKept (hpoll.task.trans htask))

theorem writeOut_requestsKept (c : Caller) (bytes : Bytes) (s : State) : RequestsKept s (s.writeOut c bytes) := by
  obtain ⟨ch, r, h⟩ := writeOut_frame c bytes s
  exact h ▸ requestsKept_stream s s.mux s.reading ch _

/-! The stream side. -/

/-- The stream's buffer, set and promiscuous flag are in `t` as in `s`, and a `MUX.READ` waits in both or in neither. -/
structure StreamKept (s t : State) : Prop where
  buf : t.mux.buf = s.mux.buf
  subs : t.mux.subs = s.mux.subs
  promisc : t.mux.promisc = s.mux.promisc
  reading : t.reading = s.reading

theorem StreamKept.refl (s : State) : StreamKept s s := ⟨rfl, rfl, rfl, rfl⟩

theorem StreamKept.trans {s t u : State} (h : StreamKept s t) (k : StreamKept t u) : StreamKept s u :=
  ⟨k.buf.trans h.buf, k.subs.trans h.subs, k.promisc.trans h.promisc, k.reading.trans h.reading⟩

theorem report_streamKept (c : Caller) (r : Res) (s : State) : StreamKept s (s.report c r) := ⟨rfl, rfl, rfl, rfl⟩

/-- A host operation, whatever is done around it to the framer, the waiting operation and the outcomes. -/
theorem Hosted.streamKept {s t : State} (h : Hosted s t) (g : Framer) (k : Option (List Frame)) (rs : List Report) :
    StreamKept s { t with sp := g, task := k, reports := rs } := by
  obtain ⟨_, _, _, _, _, _, _, _, -, -, rfl⟩ := h
  exact ⟨rfl, rfl, rfl, rfl⟩

theorem framerEvent_streamKept (e : ChanEvent) (s : State) : StreamKept s (s.framerEvent e) := by
  unfold State.framerEvent
  dsimp only
  split
  case h_1 o fs _ _ =>
    have hframer : StreamKept s { s with sp := (s.sp.step e).1 } := ⟨rfl, rfl, rfl, rfl⟩
    refine hframer.trans ?_
    obtain ⟨-, fs', u, hu, h⟩ | ⟨r, u, hu, h⟩ := unwind_cases fs (resOf .packet o) { s with sp := (s.sp.step e).1 } <;>
      rw [h]
    · exact hu.streamKept _ _ u.reports
    · exact hu.streamKept u.sp none _
  case h_2 => exact ⟨rfl, rfl, rfl, rfl⟩

/-- With no `MUX.READ` waiting, the event `cancel` sets the cancel flag and does nothing else. -/
theorem cancelEvent_streamKept {s : State} (hread : s.reading = false) : StreamKept s s.cancelEvent := by
  unfold State.cancelEvent
  dsimp only
  rw [if_neg (by simp [hread])]
  exact ⟨rfl, rfl, rfl, rfl⟩

/-- With no `MUX.READ` waiting, an event that is taken is the framer's. -/
theorem takeEvent_streamKept (e : Event) {s : State} (hread : s.reading = false) : StreamKept s (s.takeEvent e) := by
  cases e with
  | cancel => exact cancelEvent_streamKept hread
  | chan e => simpa [State.takeEvent, hread] using framerEvent_streamKept e s

theorem settle_streamKept {s : State} (hread : s.reading = false) : StreamKept s s.settle := by
  refine settle_induction (P := StreamKept s) (fun e rx t _ h => ?_) (.refl s)
  have hrx : StreamKept t (t.withRx rx) := ⟨rfl, rfl, rfl, rfl⟩
  exact (h.trans hrx).trans (takeEvent_streamKept e (h.reading.trans hread))

/-- What is done before the waiting operations go on. -/
theorem StreamKept.settle {s t : State} (h : StreamKept s t) (hread : s.reading = false) : StreamKept s t.settle :=
  h.trans (settle_streamKept (h.reading.trans hread))

/-! What an instruction answers. -/

/-- Every next state that `o` answers from `s` has the stream's registers as `s` has them. -/
def SparesStream (s : State) (o : Answer) : Prop := ∀ t, o = .next t → StreamKept s t

theorem sparesStream_next {s t : State} (h : StreamKept s t) : SparesStream s (.next t) := by rintro _ ⟨⟩; exact h

theorem sparesStream_refused (s : State) (r : Refusal) : SparesStream s (.refused r) := by rintro _ ⟨⟩

theorem report_sparesStream (c : Caller) (r : Res) (s : State) : SparesStream s (.next (s.report c r)) :=
  sparesStream_next (report_streamKept c r s)

theorem checksum_sparesStream (a : BitVec 16) (b : BitVec 32) (v : Value) (s : State) :
    SparesStream s (.next (State.ret .owner v { s with acc16 := a, acc32 := b })) :=
  sparesStream_next ⟨rfl, rfl, rfl, rfl⟩

theorem writeOut_sparesStream (c : Caller) (bytes : Bytes) (s : State) : SparesStream s (.next (s.writeOut c bytes)) := by
  obtain ⟨ch, r, h⟩ := writeOut_frame c bytes s
  exact h ▸ sparesStream_next ⟨rfl, rfl, rfl, rfl⟩

theorem execSpStep_sparesStream (e : ChanEvent) (s : State) : SparesStream s (execSpStep e s) := by
  unfold execSpStep
  split
  · rintro _ ⟨⟩
  · exact sparesStream_next ((report_streamKept _ _ s).trans (framerEvent_streamKept e _))

theorem arriveBytes_sparesStream (bs : Bytes) {s : State} (hread : s.reading = false) :
    SparesStream s (.next (s.arriveBytes bs)) :=
  sparesStream_next (StreamKept.settle ⟨rfl, rfl, rfl, rfl⟩ hread)

/-- Bytes that a format can frame arrive; others are turned away. -/
theorem framed_sparesStream (P : Prop) [Decidable P] (bs : Bytes) {s : State} (hread : s.reading = false) :
    SparesStream s (if P then .next (s.arriveBytes bs) else .refused .unframable) := by
  split
  · exact arriveBytes_sparesStream bs hread
  · exact sparesStream_refused s _

theorem receive_sparesStream (fs : List Frame) {s : State} (hread : s.reading = false) :
    SparesStream s (.next (s.receive fs)) := by
  unfold State.receive
  split
  · exact report_sparesStream _ _ s
  · exact sparesStream_next (StreamKept.settle ⟨rfl, rfl, rfl, rfl⟩ hread)

theorem proceed_sparesStream {s : State} {x : Flow} (hread : s.reading = false) (h : FlowOf s x) :
    SparesStream s (.next (State.proceed x)) := by
  obtain ⟨-, fs, t, ht, rfl⟩ | ⟨r, t, ht, rfl⟩ := h
  · exact sparesStream_next ((ht.streamKept _ _ t.reports).settle hread)
  · exact sparesStream_next (ht.streamKept t.sp t.task _)

theorem perform_sparesStream (op : HostOp) {s : State} (hread : s.reading = false) : SparesStream s (s.perform op) := by
  unfold State.perform
  split
  · exact sparesStream_refused s _
  · exact proceed_sparesStream hread (launch_cases op [] s)

theorem execRetry_sparesStream (op : HostOp) (policy : RetryPolicy) {s : State} (hread : s.reading = false) :
    SparesStream s (execRetry op policy s) := by
  unfold execRetry
  split
  · exact sparesStream_refused s _
  · split
    · exact sparesStream_refused s _
    · exact proceed_sparesStream hread (attempts_cases op policy _ _ s)

/-- What an instruction other than the four that write the stream's registers leaves of them. -/
theorem exec_sparesStream {i : Instr} {s : State} (hsub : ∀ b, i ≠ .muxSub b) (hunsub : ∀ b, i ≠ .muxUnsub b)
    (hpromisc : ∀ v, i ≠ .muxPromisc v) (hmuxRead : i ≠ .muxRead) (hread : s.reading = false) :
    SparesStream s (exec i s) := by
  cases i
  case muxSub b => exact absurd rfl (hsub b)
  case muxUnsub b => exact absurd rfl (hunsub b)
  case muxPromisc v => exact absurd rfl (hpromisc v)
  case muxRead => exact absurd rfl hmuxRead
  case muxCancel => exact sparesStream_next (cancelEvent_streamKept hread)
  case muxWrite | fSptxHeader => exact writeOut_sparesStream _ _ s
  case crcUpd w t acc b =>
    unfold exec execCrcUpd
    dsimp only
    split
    · exact sparesStream_refused s _
    · exact report_sparesStream _ _ s
  case crcCompute w t bs init =>
    unfold exec execCrcCompute State.storeAcc
    dsimp only
    split
    · exact sparesStream_refused s _
    · split
      · exact checksum_sparesStream _ s.acc32 _ s
      · split
        · exact checksum_sparesStream s.acc16 _ _ s
        · exact report_sparesStream _ _ s
  case crc16Compute => exact checksum_sparesStream _ s.acc32 _ s
  case crc32Compute => exact checksum_sparesStream s.acc16 _ _ s
  case spRx | extRx => exact receive_sparesStream _ hread
  case spStep e => exact execSpStep_sparesStream e s
  case fExtTx sub payload =>
    unfold exec execFExtTx
    dsimp only
    split
    · exact writeOut_sparesStream _ _ s
    · exact report_sparesStream _ _ s
  case fExtRx sub payload =>
    unfold exec execFExtRx
    dsimp only
    split
    · exact arriveBytes_sparesStream _ hread
    · exact sparesStream_refused s _
  case fSprxShort | fSprxLong | fCobsBlock => exact framed_sparesStream _ _ hread
  case fMuxDelim | fMuxFrame | cmdExt => exact arriveBytes_sparesStream _ hread
  case retry op policy => exact execRetry_sparesStream op policy hread
  case extXchg sub payload c | subOther sub payload c => exact perform_sparesStream (.xchg sub payload c) hread
  case ftInit | ftWrite | ftRead | ftComplete | ftUpload | ftDownload | subFtInit | subFtComplete | subFtWrite |
      subFtRead | subFtSetLink | subDirCount | subDirEntry | subExecFile | subFileMetaGet | subFileMetaSet | subFileErase |
      subSlotGet | subSysStatus | subScreenCapInit => exact perform_sparesStream _ hread
  all_goals exact report_sparesStream _ _ s

/-- A stream operation, while no operation waits for the framer, writes no register of the request side. -/
theorem exec_requestsKept {i : Instr} {s t : State}
    (hi : (∃ b, i = .muxSub b) ∨ (∃ b, i = .muxUnsub b) ∨ (∃ v, i = .muxPromisc v) ∨ i = .muxRead ∨
      (∃ b, i = .muxWrite b) ∨ i = .muxCancel)
    (htask : s.task = none) (h : exec i s = .next t) : RequestsKept s t := by
  obtain ⟨b, rfl⟩ | ⟨b, rfl⟩ | ⟨v, rfl⟩ | rfl | ⟨b, rfl⟩ | rfl := hi
  · exact execMuxSub_requestsKept h
  · exact execMuxUnsub_requestsKept h
  · cases h; exact requestsKept_stream s _ s.reading s.chan _
  · exact execMuxRead_requestsKept htask h
  · cases h; exact writeOut_requestsKept .writer b s
  · cases h; exact cancelEvent_requestsKept s

/-- Settles O60: while nothing waits for the framer every event is the stream reader's, and while no `MUX.READ` waits every
event is the framer's or only sets the cancel flag. -/
theorem streamAndRequestsShareNoRegister : Obligations.StreamAndRequestsShareNoRegister := by
  refine fun i s t h => ⟨fun hi htask => ?_, fun hsub hunsub hpromisc hmuxRead hread => ?_⟩
  · have hkept := exec_requestsKept hi htask h
    exact ⟨hkept.sp, hkept.task.trans htask, hkept.ft, hkept.snapshot, hkept.querying, hkept.attempt, hkept.legacy,
      hkept.acc16, hkept.acc32⟩
  · have hkept := exec_sparesStream hsub hunsub hpromisc hmuxRead hread t h
    exact ⟨hkept.buf, hkept.subs, hkept.promisc, hkept.reading.trans hread⟩

end Sys2Proof.Machine
end

section
/-! The port (O55): the decoder reads the encoding of every well-formed instruction as that instruction. -/

namespace Sys2Proof

open Machine

/-! The decoder's two halves: the row of a format space, then the operand constraints. -/

/-- The first half of the decoder: a row of the format space that the first byte names, well formed or not. -/
def decodeRow (p : Params) : Dec Instr := getByte >>= decodeSpace p

/-- A well-formed instruction that the first half reads is what the decoder reads. -/
theorem reads_of_row {p : Params} {w : Bytes} {i : Instr} (h : Reads (decodeRow p) w i) (hwf : i.wellFormed p = true) :
    Reads (decode p) w i := by
  intro rest
  have hrow := h rest
  cases hw : w ++ rest with
  | nil => rw [hw] at hrow; cases hrow
  | cons b bs =>
    rw [hw] at hrow
    have hspace : (decodeSpace p b).run bs = .ok (i, rest) := hrow
    rw [decode, hspace]
    exact if_pos hwf

/-- What the decoder answers is well formed. -/
theorem wellFormed_of_decode {p : Params} {bs rest : Bytes} {i : Instr} (h : decode p bs = .ok (i, rest)) :
    i.wellFormed p = true := by
  cases bs with
  | nil => cases h
  | cons b bs =>
    rw [decode] at h
    split at h
    · cases h
    · split at h
      · cases h; assumption
      · cases h

/-! Reading through a branch, a byte sequence of known length, and fixed bytes. -/

theorem Reads.ifPos {α : Type} {c : Prop} [Decidable c] {d e : Dec α} {w : Bytes} {a : α} (hc : c) (h : Reads d w a) :
    Reads (if c then d else e) w a := by rwa [if_pos hc]

theorem Reads.ifNeg {α : Type} {c : Prop} [Decidable c] {d e : Dec α} {w : Bytes} {a : α} (hc : ¬ c) (h : Reads e w a) :
    Reads (if c then d else e) w a := by rwa [if_neg hc]

theorem reads_raw_of_length {n : Nat} {w : Bytes} (h : w.length = n) : Reads (getRaw n) w w := h ▸ reads_raw w

theorem reads_expected (want : Bytes) : Reads (expectBytes want) want () :=
  ((reads_raw want).bind (Reads.ifPos rfl (Reads.pure ()))).cast want.append_nil rfl

/-- A word of `k` bytes always fits its field. -/
theorem reads_word (k : Nat) (b : BitVec (8 * k)) : Reads (getNat k) (beBytes k b.toNat) b.toNat :=
  reads_nat k _ (decide_eq_true (b.isLt.trans_eq (Nat.pow_mul 2 8 k)))

theorem fitsBytes_of_le {bs : Bytes} (h : bs.length ≤ 32767) : fitsBytes bs = true :=
  decide_eq_true (h.trans_lt (by norm_num))

theorem replyMax_le (p : Params) : replyMax p ≤ 32767 := by unfold replyMax; split <;> decide

/-! The operations (30_encoding R80, R81). -/

/-- An operation is read when its operands are read after its selector. -/
theorem reads_op {p : Params} {selector : Byte} {operands : Bytes} {i : Instr} (h : Reads decodeOp ([selector] ++ operands) i) :
    Reads (decodeRow p) (putOp selector operands) i :=
  (reads_byte 0).bind h

/-! The packet formats (30_encoding R64, R65, R68, R69, R72, R73). -/

theorem reads_sptx (cmd : Byte) {payload : Bytes} (h : fitsBytes payload = true) :
    Reads decodeSptx (Config.spTxHeader ++ ([cmd] ++ putBytes payload)) (.fSptxHeader cmd payload) :=
  (reads_expected _).bind ((reads_byte cmd).bind (Reads.map (reads_bytes payload h)))

theorem reads_sprxShort {cmd : Byte} {payload : Bytes} (h : payload.length < if cmd = Config.extCmd then 128 else 256) :
    Reads decodeSprx (sprxShort cmd payload) (.fSprxShort cmd payload) := by
  have hlt : payload.length < 256 := h.trans_le (by split <;> decide)
  have hlen : payload.length = (BitVec.ofNat 8 payload.length).toNat := (Nat.mod_eq_of_lt hlt).symm
  have hone : ¬ twoLengthBytes cmd (BitVec.ofNat 8 payload.length) = true := by simp [twoLengthBytes_short h]
  exact (reads_expected [Config.sync0, Config.sync1]).bind ((reads_byte cmd).bind ((reads_byte _).bind
    (Reads.ifNeg hone (Reads.map (reads_raw_of_length hlen)))))

theorem reads_sprxLong {payload : Bytes} (h : payload.length ≤ 32767) :
    Reads decodeSprx (sprxLong payload) (.fSprxLong payload) := by
  rw [sprxLong_eq h]
  exact (reads_expected [Config.sync0, Config.sync1]).bind ((reads_byte Config.extCmd).bind ((reads_byte _).bind
    (Reads.ifPos (continues_long h) ((reads_byte _).bind (Reads.map (reads_raw_of_length (lenTwo_encoded h).symm))))))

theorem reads_extTx (sub : Byte) {payload : Bytes} (h : fitsBytes payload = true) :
    Reads decodeExt (Config.spTxHeader ++ ([Config.extCmd, sub] ++ putBytes payload)) (.fExtTx sub payload) :=
  (reads_byte 0xC9).bind (Reads.ifNeg (by decide) (Reads.ifPos rfl ((reads_expected [0x36, 0xB8, 0x47, Config.extCmd]).bind
    ((reads_byte sub).bind (Reads.map (reads_bytes payload h))))))

theorem reads_extRx (sub : Byte) {payload : Bytes} (h : fitsBytes payload = true) :
    Reads decodeExt ([Config.sync0, Config.sync1, Config.extCmd, sub] ++ putBytes payload) (.fExtRx sub payload) :=
  (reads_byte Config.sync0).bind (Reads.ifPos rfl ((reads_expected [Config.sync1, Config.extCmd]).bind
    ((reads_byte sub).bind (Reads.map (reads_bytes payload h)))))

theorem reads_frame (t : Topic) {payload : Bytes} (h : fitsBytes payload = true) :
    Reads decodeFrame (t.bytes ++ putBytes payload) (.fMuxFrame t payload) :=
  (reads_byte t.b0).bind ((reads_byte t.b1).bind ((reads_byte t.b2).bind ((reads_byte t.b3).bind
    (Reads.map (reads_bytes payload h)))))

theorem reads_block {data : Bytes} (h : data.length ≤ 254) :
    Reads decodeBlock (BitVec.ofNat 8 (data.length + 1) :: data) (.fCobsBlock data) := by
  have hcode : (BitVec.ofNat 8 (data.length + 1)).toNat = data.length + 1 := Nat.mod_eq_of_lt (by omega)
  have hne : BitVec.ofNat 8 (data.length + 1) ≠ 0 := fun h0 => by simp [h0] at hcode
  exact (reads_byte _).bind (Reads.ifNeg hne (Reads.map (reads_raw_of_length (by rw [hcode, Nat.add_sub_cancel]))))

/-! The length fields (30_encoding R66). -/

theorem toNat_shortLength (l : BitVec 7) : (l.setWidth 8).toNat = l.toNat :=
  BitVec.toNat_setWidth_of_le (by decide)

theorem toNat_longLength_le (l : BitVec 15) : l.toNat ≤ 32767 := Nat.le_of_lt_succ l.isLt

/-- The two bytes that spell a 15-bit length are those of the encoders. -/
theorem longLength_bytes (l : BitVec 15) : [0x80 ||| (l >>> 8).setWidth 8, l.setWidth 8] =
    ([BitVec.ofNat 8 (128 + l.toNat / 256), BitVec.ofNat 8 (l.toNat % 256)] : Bytes) := by
  have hhigh : (l >>> 8).setWidth 8 = BitVec.ofNat 8 (l.toNat >>> 8) := BitVec.eq_of_toNat_eq (by simp)
  have hlow : l.setWidth 8 = BitVec.ofNat 8 (l.toNat % 256) := BitVec.eq_of_toNat_eq (by simp)
  rw [hhigh, hlow, ← lenFirst_eq _ (toNat_longLength_le l)]

theorem reads_lenShort (l : BitVec 7) : Reads decodeLen [l.setWidth 8] (.fLenShort l) := by
  have hone : ¬ continues (l.setWidth 8) = true := by
    rw [continues_iff, toNat_shortLength]
    exact not_le.mpr l.isLt
  refine (reads_byte _).bind (Reads.ifNeg hone ((Reads.pure _).cast rfl ?_))
  rw [BitVec.setWidth_setWidth_of_le _ (by decide), BitVec.setWidth_eq]

theorem reads_lenLong (l : BitVec 15) :
    Reads decodeLen [0x80 ||| (l >>> 8).setWidth 8, l.setWidth 8] (.fLenLong l) := by
  have hle := toNat_longLength_le l
  rw [longLength_bytes]
  exact (reads_byte _).bind (Reads.ifPos (continues_long hle)
    ((Reads.map (reads_byte _)).cast rfl (congrArg _ (BitVec.eq_of_toNat_eq (lenTwo_encoded hle)))))

/-! The rows of one byte value each: the acknowledgment byte and the sub-command (30_encoding R75, R76). -/

/-- The row of an acknowledgment byte. -/
def ackInstr (p : Params) (b : Byte) : Instr :=
  match nackOfByte b with
  | some c => nackInstr c
  | none => if b = p.ackByte then .ack else .nackOther b

theorem ackInstr_ackByte {p : Params} (h : (nackOfByte p.ackByte).isNone = true) : ackInstr p p.ackByte = .ack := by
  simp [ackInstr, Option.isNone_iff_eq_none.mp h]

theorem ackInstr_other {p : Params} {b : Byte} (h : (nackOfByte b).isNone = true) (hb : b ≠ p.ackByte) :
    ackInstr p b = .nackOther b := by
  simp [ackInstr, Option.isNone_iff_eq_none.mp h, hb]

/-- Each byte of the acknowledgment space is read as its row. -/
theorem reads_ackByte (p : Params) (b : Byte) : Reads (decodeRow p) [9, b] (ackInstr p b) := by
  refine (reads_byte 9).bind ((reads_byte b).bind (v := []) ?_)
  unfold ackInstr
  cases nackOfByte b with
  | some c => exact Reads.pure _
  | none =>
    dsimp only
    split
    · exact Reads.pure _
    · exact Reads.pure _

/-- Each sub-command byte is read as its row, the operands of the exchange after it. -/
theorem reads_sub {p : Params} (sub : Byte) {payload : Bytes} {c : Checks} (h : subWellFormed payload c = true) :
    Reads (decodeRow p) (putSub sub payload c) (subInstr sub payload c) := by
  obtain ⟨hpayload, hc⟩ := (Bool.and_eq_true _ _).mp h
  rw [putSub, List.append_assoc]
  exact (reads_byte 10).bind ((reads_byte sub).bind ((reads_bytes payload hpayload).bind (Reads.map (reads_checks c hc))))

/-! Every row. -/

/-- The first half of the decoder reads each row's own bits, then its operands in the order in which the encoder puts them. -/
theorem reads_encode {p : Params} {i : Instr} (h : i.wellFormed p = true) : Reads (decodeRow p) (encode p i) i := by
  cases i
  case crcBuild w P =>
    obtain ⟨hw, hP⟩ := (Bool.and_eq_true _ _).mp h
    exact reads_op ((reads_byte 0).bind ((reads_nat 2 w hw).bind (Reads.map (reads_nat 8 P hP))))
  case crcUpd w t acc b =>
    simp only [Instr.wellFormed, Bool.and_eq_true, decide_eq_true_eq] at h
    obtain ⟨⟨⟨hw, hexcess⟩, ht⟩, hacc⟩ := h
    simp only [encode, List.append_assoc]
    exact reads_op ((reads_byte 1).bind ((reads_nat 2 _ hexcess).bind ((reads_table t ht).bind
      ((reads_nat 8 acc hacc).bind ((Reads.map (reads_byte b)).cast rfl (by rw [Nat.sub_add_cancel hw]))))))
  case crcCompute w t bs init =>
    simp only [Instr.wellFormed, Bool.and_eq_true, decide_eq_true_eq] at h
    obtain ⟨⟨⟨⟨hw, hexcess⟩, ht⟩, hbs⟩, hinit⟩ := h
    simp only [encode, List.append_assoc]
    exact reads_op ((reads_byte 2).bind ((reads_nat 2 _ hexcess).bind ((reads_table t ht).bind
      ((reads_nat 8 init hinit).bind ((Reads.map (reads_bytes bs hbs)).cast rfl (by rw [Nat.sub_add_cancel hw]))))))
  case crc16Compute bs init =>
    exact reads_op ((reads_byte 3).bind ((reads_word 2 init).bind ((Reads.map (reads_bytes bs h)).cast rfl (by simp))))
  case crc32Compute bs init =>
    exact reads_op ((reads_byte 4).bind ((reads_word 4 init).bind ((Reads.map (reads_bytes bs h)).cast rfl (by simp))))
  case spRx | muxRead | muxCancel => exact reads_op ((reads_byte _).bind (Reads.pure _))
  case spTx b bs | extTx b bs =>
    exact reads_op ((reads_byte _).bind ((reads_byte b).bind (Reads.map (reads_bytes bs h))))
  case extLenDec bs | cobsDecode bs | cobsEncode bs | muxSub bs | muxUnsub bs | muxWrite bs =>
    exact reads_op ((reads_byte _).bind (Reads.map (reads_bytes bs h)))
  case spStep e => exact reads_op ((reads_byte 7).bind (Reads.map (reads_event e)))
  case extLenEnc n => exact reads_op ((reads_byte 8).bind (Reads.map (reads_nat 4 n h)))
  case extDecode pk sub c =>
    obtain ⟨hpk, hc⟩ := (Bool.and_eq_true _ _).mp h
    simp only [encode, List.append_assoc]
    exact reads_op ((reads_byte 11).bind ((reads_packet pk hpk).bind ((reads_byte sub).bind (Reads.map (reads_checks c hc)))))
  case extRx sub c => exact reads_op ((reads_byte 12).bind ((reads_byte sub).bind (Reads.map (reads_checks c h))))
  case ackDecode b => exact reads_op ((reads_byte 13).bind (Reads.map (reads_byte b)))
  case muxPromisc v => exact reads_op ((reads_byte 18).bind (Reads.map (reads_bool v)))
  case extXchg sub payload c =>
    obtain ⟨hpayload, hc⟩ := (Bool.and_eq_true _ _).mp h
    simp only [encode, List.append_assoc]
    exact reads_op ((reads_byte 22).bind ((reads_byte sub).bind ((reads_bytes payload hpayload).bind
      (Reads.map (reads_checks c hc)))))
  case ftInit a => exact reads_op ((reads_byte 23).bind (Reads.map (reads_init a h)))
  case ftWrite a d =>
    obtain ⟨ha, hd⟩ := (Bool.and_eq_true _ _).mp h
    exact reads_op ((reads_byte 24).bind ((reads_nat 4 a ha).bind (Reads.map (reads_bytes d hd))))
  case ftRead a n c =>
    simp only [Instr.wellFormed, Bool.and_eq_true] at h
    obtain ⟨⟨ha, hn⟩, hc⟩ := h
    simp only [encode, List.append_assoc]
    exact reads_op ((reads_byte 25).bind ((reads_nat 4 a ha).bind ((reads_nat 4 n hn).bind (Reads.map (reads_checks c hc)))))
  case ftComplete r => exact reads_op ((reads_byte 26).bind (Reads.map (reads_run r)))
  case ftUpload a => exact reads_op ((reads_byte 27).bind (Reads.map (reads_upload a h)))
  case ftDownload a => exact reads_op ((reads_byte 28).bind (Reads.map (reads_download a h)))
  case retry op policy =>
    obtain ⟨hop, hpolicy⟩ := (Bool.and_eq_true _ _).mp h
    exact reads_op ((reads_byte 29).bind ((reads_policy policy hpolicy).bind (Reads.map (reads_hostOp op hop))))
  case classify e => exact reads_op ((reads_byte 30).bind (Reads.map (reads_err e h)))
  case fSptxHeader cmd payload =>
    simp only [encode, List.append_assoc]
    exact (reads_byte 1).bind (reads_sptx cmd h)
  case fSprxShort cmd payload => exact (reads_byte 2).bind (reads_sprxShort (of_decide_eq_true h))
  case fSprxLong payload => exact (reads_byte 2).bind (reads_sprxLong (of_decide_eq_true h))
  case fLenShort l => exact (reads_byte 3).bind (reads_lenShort l)
  case fLenLong l => exact (reads_byte 3).bind (reads_lenLong l)
  case fExtTx sub payload =>
    have hle : payload.length ≤ 32767 := of_decide_eq_true h
    simp only [encode, List.append_assoc]
    exact (reads_byte 4).bind (reads_extTx sub (fitsBytes_of_le hle))
  case fExtRx sub payload =>
    have hle : payload.length ≤ replyMax p := of_decide_eq_true h
    exact (reads_byte 4).bind (reads_extRx sub (fitsBytes_of_le (hle.trans (replyMax_le p))))
  case fMuxDelim => exact (reads_byte 5).bind ((reads_expected [Config.muxDelim]).bind (v := []) (Reads.pure _))
  case fMuxFrame t payload => exact (reads_byte 6).bind (reads_frame t h)
  case fCobsBlock data =>
    obtain ⟨hle, -⟩ := (Bool.and_eq_true _ _).mp h
    exact (reads_byte 7).bind (reads_block (of_decide_eq_true hle))
  case cmdExt => exact (reads_byte 8).bind ((reads_expected [Config.extCmd]).bind (v := []) (Reads.pure _))
  case ack => exact (reads_ackByte p p.ackByte).cast rfl (ackInstr_ackByte h)
  case nackOther b =>
    obtain ⟨hnone, hne⟩ := (Bool.and_eq_true _ _).mp h
    exact (reads_ackByte p b).cast rfl (ackInstr_other hnone (of_decide_eq_true hne))
  case subOther sub payload c =>
    obtain ⟨hsub, hoperands⟩ := (Bool.and_eq_true _ _).mp h
    exact (reads_sub sub hoperands).cast rfl (subInstr_other (by simpa using hsub) payload c)
  case subFtInit | subFtComplete | subFtWrite | subFtRead | subFtSetLink | subDirCount | subDirEntry | subExecFile |
      subFileMetaGet | subFileMetaSet | subFileErase | subSlotGet | subSysStatus | subScreenCapInit => exact reads_sub _ h
  all_goals exact reads_ackByte p _

/-- Settles O55: the row of each instruction is read back, and a well-formed one is answered. -/
theorem decodeUndoesEncode : Obligations.DecodeUndoesEncode := fun _ _ rest h => reads_of_row (reads_encode h) h rest

end Sys2Proof
end

section
/-! Lengths, acknowledgments and writes (O18, O25, O34), and the instruction at the port (O52, O54). -/

namespace Sys2Proof.Machine

/-! The length decoder (42_extended_packet R122). -/

theorem extLenDec_short {b : Byte} (h : b.toNat < 128) (rest : Bytes) : extLenDec (b :: rest) = .ok (b.toNat, 1) := by
  have hone : ¬ continues b = true := fun hc => absurd ((continues_iff b).mp hc) (not_le.mpr h)
  exact if_neg hone

theorem extLenDec_cut {b : Byte} (h : 128 ≤ b.toNat) : extLenDec [b] = .error .unexpectedLength :=
  if_pos ((continues_iff b).mpr h)

theorem extLenDec_two {b : Byte} (h : continues b = true) (c : Byte) (rest : Bytes) :
    extLenDec (b :: c :: rest) = .ok ((lenTwo b c).toNat, 2) := if_pos h

theorem extLenDec_long {b : Byte} (h : 128 ≤ b.toNat) (c : Byte) (rest : Bytes) :
    extLenDec (b :: c :: rest) = .ok ((b.toNat - 128) * 256 + c.toNat, 2) := by
  have hb := b.isLt
  have hhigh : b.toNat % 128 = b.toNat - 128 := by omega
  rw [extLenDec_two ((continues_iff b).mpr h), lenTwo_toNat, hhigh]

/-- A two-byte field is decoded whatever length it spells (30_encoding R66). -/
theorem extLenDec_lenLong (l : BitVec 15) :
    extLenDec [0x80 ||| (l >>> 8).setWidth 8, l.setWidth 8] = .ok (l.toNat, 2) := by
  have hle := toNat_longLength_le l
  rw [longLength_bytes, extLenDec_two (continues_long hle), lenTwo_encoded hle]

theorem exec_extLenDec (bytes : Bytes) (s : State) : exec (.extLenDec bytes) s =
    .next (s.report .owner (resOf (fun r => .length r.1 r.2) (extLenDec bytes))) := rfl

/-- The rows of a length field are read by the length decoder (log 12). -/
theorem exec_fLenShort (l : BitVec 7) (s : State) : exec (.fLenShort l) s = exec (.extLenDec [l.setWidth 8]) s := rfl

theorem exec_fLenLong (l : BitVec 15) (s : State) :
    exec (.fLenLong l) s = exec (.extLenDec [0x80 ||| (l >>> 8).setWidth 8, l.setWidth 8]) s := rfl

/-- Settles O18: the decoder's cases by the continuation bit of the first byte; the rows of a length field are two of them. -/
theorem lengthDecodingUndoesEncoding : Obligations.LengthDecodingUndoesEncoding := by
  refine ⟨fun s => rfl, fun b rest s h => ?_, fun b s h => ?_, fun b c rest s h => ?_,
    fun n enc t h => extLenDec_extLenEnc h t, fun l s => ?_, fun l s => ?_⟩
  · rw [exec_extLenDec, extLenDec_short h]; rfl
  · rw [exec_extLenDec, extLenDec_cut h]; rfl
  · rw [exec_extLenDec, extLenDec_long h]; rfl
  · have hlt : (l.setWidth 8).toNat < 128 := (toNat_shortLength l).trans_lt l.isLt
    rw [exec_fLenShort, exec_extLenDec, extLenDec_short hlt, toNat_shortLength]; rfl
  · rw [exec_fLenLong, exec_extLenDec, extLenDec_lenLong]; rfl

/-! The acknowledgment byte (42_extended_packet R126). -/

theorem ackByte_of_nack {b : Byte} {c : NackCode} (h : nackOfByte b = some c) (s : State) :
    s.ackByte b = s.report .owner (.error (.deviceRejected c)) := by
  simp only [State.ackByte, ackDecode, h, resOf]

theorem ackByte_of_ack {s : State} (h : nackOfByte s.params.ackByte = none) :
    s.ackByte s.params.ackByte = s.report .owner (.ok .ack) := by
  simp only [State.ackByte, ackDecode, h, if_true, resOf]

theorem ackByte_of_other {b : Byte} {s : State} (h : nackOfByte b = none) (hb : b ≠ s.params.ackByte) :
    s.ackByte b = s.report .owner (.error (.unexpectedAck (some b))) := by
  simp only [State.ackByte, ackDecode, h, if_neg hb, resOf]

theorem nackOfByte_byte (c : NackCode) : nackOfByte c.byte = some c := by cases c <;> rfl

theorem nackOfByte_eq_none {b : Byte} (h : b ∉ NackCode.all.map NackCode.byte) : nackOfByte b = none :=
  List.find?_eq_none.mpr fun c hc hb => h (List.mem_map.mpr ⟨c, hc, eq_of_beq hb⟩)

/-- The row of a rejection code is its catalogue byte in the acknowledgment position (30_encoding R76; log 12). -/
theorem exec_nackInstr (c : NackCode) (s : State) :
    exec (nackInstr c) s = .next (s.report .owner (.error (.deviceRejected c))) := by
  have hexec : exec (nackInstr c) s = .next (s.ackByte c.byte) := by cases c <;> rfl
  rw [hexec, ackByte_of_nack (nackOfByte_byte c)]

/-- Settles O25: a row of the list is the row of its code, and every code reports itself. -/
theorem ackRowsReportTheirCode : Obligations.AckRowsReportTheirCode := by
  intro s
  refine ⟨fun e he => ?_, fun h => ?_, fun b hnot hb => ?_⟩
  · have hrow : e.1 = nackInstr e.2 := by revert e; decide
    rw [hrow]
    exact exec_nackInstr e.2 s
  · exact congrArg _ (ackByte_of_ack (Option.isNone_iff_eq_none.mp h))
  · exact congrArg _ (ackByte_of_other (nackOfByte_eq_none hnot) hb)

/-! Writes that the channel accepts (log 15). -/

theorem writeOut_accepted {s : State} (h : s.accepts 1 = true) (c : Caller) (bytes : Bytes) :
    s.writeOut c bytes = { s with
      chan := { s.chan with tx := s.chan.tx ++ bytes, writes := s.chan.writes.drop 1 }
      reports := s.reports ++ [⟨c, .ok .unit⟩] } := by
  rw [State.writeOut, chanWrite_accepted h]
  rfl

/-- Settles O34: each row hands its bytes to the channel in one write. -/
theorem writesReachTheChannel : Obligations.WritesReachTheChannel := by
  intro bytes cmd sub s h
  refine ⟨congrArg _ (writeOut_accepted h .writer bytes), congrArg _ (writeOut_accepted h .owner (spTx cmd bytes)),
    fun wire hwire => ?_⟩
  have hexec : exec (.fExtTx sub bytes) s = .next (s.writeOut .owner wire) := by
    simp only [exec, execFExtTx, hwire]
  rw [hexec, writeOut_accepted h]

/-! The instruction at the port. -/

/-- Settles O52: the decoder answers well-formed instructions only, and the step carries its answer out. -/
theorem stepRunsTheDecodedInstruction : Obligations.StepRunsTheDecodedInstruction :=
  fun s i rest halive hreset hport h => ⟨wellFormed_of_decode h, step_of_decode s i rest halive hreset hport h⟩

/-- Settles O54: each word is the encoding of its instruction; selector 31 and space 11 have none. -/
theorem writtenOutWordsDecode : Obligations.WrittenOutWordsDecode := by
  intro p hp
  subst hp
  have hread : ∀ i : Instr, i.wellFormed Params.default = true →
      decode Params.default (encode Params.default i) = .ok (i, []) := fun i h => by
    simpa using decodeUndoesEncode Params.default i [] h
  exact ⟨hread .spRx rfl, hread .muxCancel rfl, hread (.fSprxShort 0x21 [0x10, 0x20]) rfl, hread (.fLenShort 127) rfl,
    hread (.fLenLong 200) rfl, hread (.fCobsBlock [0x11, 0x22]) rfl, hread .nackDirectoryEntryMissing rfl, hread .ack rfl,
    rfl, rfl⟩

end Sys2Proof.Machine
end

section
/-! The CRC engine in its table form and its bit-serial form (O1, O3, O4, O5, O6; 40_crc). Each of the eight shift steps is
linear, and it only shifts while the highest bit is clear. So eight steps on an accumulator are a table entry for its highest
byte and a plain shift for the rest, which is the per-byte step. -/

namespace Sys2Proof.Machine

/-! The shift steps. -/

theorem crcShift_xor {W : Nat} (P a b : BitVec W) : crcShift P (a ^^^ b) = crcShift P a ^^^ crcShift P b := by
  unfold crcShift
  rw [BitVec.msb_xor, BitVec.shiftLeft_xor_distrib]
  cases a.msb <;> cases b.msb
  · rfl
  · exact BitVec.xor_assoc ..
  · change (a <<< 1 ^^^ b <<< 1) ^^^ P = (a <<< 1 ^^^ P) ^^^ b <<< 1
    ac_rfl
  · calc a <<< 1 ^^^ b <<< 1 = (a <<< 1 ^^^ b <<< 1) ^^^ (P ^^^ P) := by rw [BitVec.xor_self]; exact BitVec.xor_zero.symm
      _ = (a <<< 1 ^^^ P) ^^^ (b <<< 1 ^^^ P) := by ac_rfl

theorem repeat_crcShift_xor {W : Nat} (P a b : BitVec W) (n : Nat) :
    Nat.repeat (crcShift P) n (a ^^^ b) = Nat.repeat (crcShift P) n a ^^^ Nat.repeat (crcShift P) n b := by
  induction n with
  | zero => rfl
  | succ n ih => rw [Nat.repeat, ih, crcShift_xor]; rfl

/-- While no set bit reaches the top, the steps do not use the polynomial. -/
theorem repeat_crcShift_of_clear {W : Nat} (P r : BitVec W) {n : Nat} (h : ∀ i < n, r.getMsbD i = false) :
    Nat.repeat (crcShift P) n r = r <<< n := by
  induction n with
  | zero => simp [Nat.repeat]
  | succ n ih =>
    have hmsb : (r <<< n).msb = false := by rw [BitVec.msb_shiftLeft]; exact h n n.lt_succ_self
    rw [Nat.repeat, ih fun i hi => h i (by omega), crcShift, hmsb, BitVec.shiftLeft_add]
    rfl

/-! The table (40_crc R86, R87). -/

theorem crcTable_length {W : Nat} (P : BitVec W) : (crcTable P).length = 256 := by simp [crcTable]

theorem crcTable_getD {W : Nat} (P : BitVec W) (i : Byte) : (crcTable P).getD i.toNat 0 = crcEntry P i := by
  simp [crcTable, List.getD_eq_getElem?_getD, i.isLt]

theorem crcEntry_xor {W : Nat} (P : BitVec W) (i j : Byte) : crcEntry P (i ^^^ j) = crcEntry P i ^^^ crcEntry P j := by
  unfold crcEntry
  rw [BitVec.setWidth_xor, BitVec.shiftLeft_xor_distrib, repeat_crcShift_xor]

/-- The one set bit of the index reaches the top at the eighth step and leaves the polynomial. -/
theorem crcEntry_one {W : Nat} (P : BitVec W) (hW : 8 ≤ W) : crcEntry P 1 = P := by
  have hone : ((1 : Byte).setWidth W <<< (W - 8)) = BitVec.twoPow W (W - 8) := by
    have hbit : (1 : Byte).setWidth W = 1#W := by ext i hi; simp
    rw [hbit, BitVec.twoPow_eq]
  have hseven : Nat.repeat (crcShift P) 7 (BitVec.twoPow W (W - 8)) = BitVec.twoPow W (W - 8) <<< 7 :=
    repeat_crcShift_of_clear P _ fun i hi => by simp; omega
  have htop : (BitVec.twoPow W (W - 8) <<< 7).msb = true := by simp; omega
  have hout : (BitVec.twoPow W (W - 8) <<< 7) <<< 1 = 0 := by
    rw [← BitVec.shiftLeft_add, BitVec.twoPow_eq, ← BitVec.shiftLeft_add]
    exact BitVec.shiftLeft_eq_zero (by omega)
  rw [crcEntry, hone, Nat.repeat, hseven, crcShift, if_pos htop, hout]
  exact BitVec.zero_xor

theorem crcUpd_from_zero {W : Nat} (P : BitVec W) (i : Byte) : crcUpd (crcTable P) 0 i = (crcTable P).getD i.toNat 0 := by
  simp [crcUpd]

/-! The two forms agree (40_crc R96). -/

/-- An accumulator is its highest byte at its place and the rest. -/
theorem top_xor_rest {W : Nat} (acc : BitVec W) (hW : 8 ≤ W) :
    ((acc >>> (W - 8)).setWidth 8).setWidth W <<< (W - 8) ^^^ (acc <<< 8) >>> 8 = acc := by
  ext i hi
  by_cases hrest : i < W - 8
  · have hin : 8 + i < W := by omega
    simp [hrest, hin, BitVec.getLsbD_eq_getElem]
  · have hout : ¬ 8 + i < W := by omega
    have hbyte : i - (W - 8) < 8 := by omega
    have hback : W - 8 + (i - (W - 8)) = i := by omega
    simp [hrest, hout, hbyte, hback, BitVec.getLsbD_eq_getElem hi]

theorem rest_shiftLeft {W : Nat} (acc : BitVec W) : ((acc <<< 8) >>> 8) <<< 8 = acc <<< 8 := by
  ext i hi
  by_cases hlow : i < 8
  · simp [hlow]
  · have hback : 8 + (i - 8) = i := by omega
    simp [hlow, hback, hi]

/-- The per-byte step is eight shift steps on the accumulator with the byte added to its top. -/
theorem crcUpd_eq_repeat {W : Nat} (P acc : BitVec W) (b : Byte) (hW : 8 ≤ W) :
    crcUpd (crcTable P) acc b = Nat.repeat (crcShift P) 8 (acc ^^^ b.setWidth W <<< (W - 8)) := by
  have hrest : Nat.repeat (crcShift P) 8 ((acc <<< 8) >>> 8) = acc <<< 8 := by
    rw [repeat_crcShift_of_clear P _ fun i hi => by simp [hi], rest_shiftLeft]
  have hsplit : acc ^^^ b.setWidth W <<< (W - 8) =
      ((acc >>> (W - 8)).setWidth 8 ^^^ b).setWidth W <<< (W - 8) ^^^ (acc <<< 8) >>> 8 := by
    conv_lhs => rw [← top_xor_rest acc hW]
    rw [BitVec.setWidth_xor, BitVec.shiftLeft_xor_distrib, BitVec.xor_assoc, BitVec.xor_assoc,
      BitVec.xor_comm (acc <<< 8 >>> 8)]
  rw [hsplit, repeat_crcShift_xor, hrest, BitVec.xor_comm]
  exact congrArg (acc <<< 8 ^^^ ·) (crcTable_getD P _)

theorem crcCompute_eq_crcBitwise {W : Nat} (P : BitVec W) (hW : 8 ≤ W) (bytes : Bytes) (initial : BitVec W) :
    crcCompute (crcTable P) bytes initial = crcBitwise P bytes initial := by
  have hstep : crcUpd (crcTable P) =
      fun (acc : BitVec W) (b : Byte) => Nat.repeat (crcShift P) 8 (acc ^^^ b.setWidth W <<< (W - 8)) :=
    funext₂ fun acc b => crcUpd_eq_repeat P acc b hW
  rw [crcCompute, hstep, crcBitwise]

theorem crc16_eq_crcBitwise (bytes : Bytes) (initial : BitVec 16) :
    crc16 bytes initial = crcBitwise 0x1021#16 bytes initial :=
  crcCompute_eq_crcBitwise 0x1021#16 (by decide) bytes initial

theorem crc32_eq_crcBitwise (bytes : Bytes) (initial : BitVec 32) :
    crc32 bytes initial = crcBitwise 0x04C11DB7#32 bytes initial :=
  crcCompute_eq_crcBitwise 0x04C11DB7#32 (by decide) bytes initial

theorem crcWith_eq_crcBitwise {w : Nat} {t : TableRef} (ht : t.width = w) (hw : 8 ≤ w) (bytes : Bytes) (acc : Nat) :
    crcWith w t bytes acc = crcBitwise (BitVec.ofNat w t.poly) bytes (BitVec.ofNat w acc) := by
  rw [crcWith, if_pos ht, crcCompute_eq_crcBitwise _ hw]

/-! What the instructions do. -/

theorem exec_crcBuild {w : Nat} (P : Nat) (s : State) (hw : 8 ≤ w) : exec (.crcBuild w P) s =
    .next (s.ret .owner (.table w ((crcTable (BitVec.ofNat w P)).map (·.toNat)))) := by
  have harm : exec (.crcBuild w P) s = execCrcBuild w P s := rfl
  rw [harm, execCrcBuild, crcBuild_of_valid P hw]
  rfl

theorem widths_valid {w : Nat} {t : TableRef} (hw : 8 ≤ w) (ht : 8 ≤ t.width) :
    ¬ (w < Config.crcWidthMin ∨ t.width < Config.crcWidthMin) :=
  not_or.mpr ⟨not_lt.mpr hw, not_lt.mpr ht⟩

theorem exec_crcUpd {w : Nat} {t : TableRef} (acc : Nat) (b : Byte) (s : State) (hw : 8 ≤ w) (ht : 8 ≤ t.width) :
    exec (.crcUpd w t acc b) s = .next (s.ret .owner (.checksum w (crcWith w t [b] acc).toNat)) :=
  if_neg (widths_valid hw ht)

theorem exec_crcCompute {w : Nat} {t : TableRef} (bytes : Bytes) (initial : Nat) (s : State) (hw : 8 ≤ w)
    (ht : 8 ≤ t.width) : exec (.crcCompute w t bytes initial) s =
      .next ((s.storeAcc w t (crcWith w t bytes initial).toNat).ret .owner
        (.checksum w (crcWith w t bytes initial).toNat)) :=
  if_neg (widths_valid hw ht)

theorem isCrc16_iff (w : Nat) (t : TableRef) :
    isCrc16 w t = true ↔ t.width = w ∧ w = 16 ∧ t.poly % 2 ^ 16 = 0x1021 := by
  simp only [isCrc16, Config.crc16Poly, Bool.and_eq_true, beq_iff_eq]
  omega

theorem isCrc32_iff (w : Nat) (t : TableRef) :
    isCrc32 w t = true ↔ t.width = w ∧ w = 32 ∧ t.poly % 2 ^ 32 = 0x04C11DB7 := by
  simp only [isCrc32, Config.crc32Poly, Bool.and_eq_true, beq_iff_eq]
  omega

/-- Each register is kept for its own width and polynomial, since no engine has both widths (10_state R21; log 8). -/
theorem storeAcc_eq (w : Nat) (t : TableRef) (v : Nat) (s : State) : s.storeAcc w t v =
    { s with
      acc16 := if t.width = w ∧ w = 16 ∧ t.poly % 2 ^ 16 = 0x1021 then BitVec.ofNat 16 v else s.acc16
      acc32 := if t.width = w ∧ w = 32 ∧ t.poly % 2 ^ 32 = 0x04C11DB7 then BitVec.ofNat 32 v else s.acc32 } := by
  simp only [State.storeAcc, isCrc16_iff, isCrc32_iff]
  by_cases h16 : t.width = w ∧ w = 16 ∧ t.poly % 2 ^ 16 = 0x1021
  · have h32 : ¬ (t.width = w ∧ w = 32 ∧ t.poly % 2 ^ 32 = 0x04C11DB7) := fun h => by omega
    rw [if_pos h16, if_pos h16, if_neg h32]
  · rw [if_neg h16, if_neg h16]
    split <;> rfl

/-! The obligations on the instructions. -/

/-- Settles O1: the table is the one of 40_crc R86, whose entries are linear in their index. -/
theorem crcBuildGivesLinearTable : Obligations.CrcBuildGivesLinearTable := by
  intro w P s hw
  refine ⟨crcTable (BitVec.ofNat w P), exec_crcBuild P s hw, crcTable_length _, crcTable_zero _, ?_, fun i j => ?_,
    crcUpd_from_zero _⟩
  · exact (crcTable_getD _ 1).trans (crcEntry_one _ hw)
  · simp only [crcTable_getD, crcEntry_xor]

/-- Settles O3: the value is `crcWith` on the one byte. -/
theorem crcUpdIsEightShiftSteps : Obligations.CrcUpdIsEightShiftSteps := fun w t acc b s hw ht =>
  ⟨crcWith w t [b] acc, fun h => crcWith_eq_crcBitwise h hw [b] acc, exec_crcUpd acc b s hw ht⟩

/-- Settles O4: the value is `crcWith` on all the bytes, and `storeAcc_eq` says which register keeps it. -/
theorem crcComputeIsBitSerial : Obligations.CrcComputeIsBitSerial := fun w t bytes initial s hw ht =>
  ⟨crcWith w t bytes initial, fun h => crcWith_eq_crcBitwise h hw bytes initial, by
    rw [exec_crcCompute bytes initial s hw ht, storeAcc_eq]; rfl⟩

/-- Settles O5: `CRC16` and `CRC32` are the engine with the table of their polynomial. -/
theorem crcInstancesComputeBitSerially : Obligations.CrcInstancesComputeBitSerially := by
  refine ⟨fun bytes initial s => ?_, fun bytes initial s => ?_⟩
  · rw [← crc16_eq_crcBitwise]; rfl
  · rw [← crc32_eq_crcBitwise]; rfl

/-! The residue (40_crc R93). -/

/-- The `k`-th byte of the checksum from below stands on top once the bytes above it have been shifted out. -/
theorem byte_eq_top {n k : Nat} (c : BitVec (8 * n)) (hk : k < n) :
    BitVec.ofNat 8 (c.toNat / 256 ^ k) = ((c <<< (8 * (n - (k + 1)))) >>> (8 * n - 8)).setWidth 8 := by
  have hbyte : BitVec.ofNat 8 (c.toNat / 256 ^ k) = (c >>> (8 * k)).setWidth 8 := by
    rw [← BitVec.ofNat_toNat, BitVec.toNat_ushiftRight, Nat.shiftRight_eq_div_pow, pow_mul]
    rfl
  rw [hbyte]
  ext i hi
  have hin : 8 * n - 8 + i < 8 * n := by omega
  have hkept : ¬ 8 * n - 8 + i < 8 * (n - (k + 1)) := by omega
  have hplace : 8 * n - 8 + i - 8 * (n - (k + 1)) = 8 * k + i := by omega
  have hbit : 8 * k + i < 8 * n := by omega
  simp [hin, hkept, hplace, BitVec.getLsbD_eq_getElem hbit]

/-- Consuming the low `k` bytes of `c` from `c` with the other bytes shifted out shifts these out too. -/
theorem crcCompute_own_bytes {n : Nat} (P c : BitVec (8 * n)) {k : Nat} (hk : k ≤ n) :
    crcCompute (crcTable P) (beBytes k c.toNat) (c <<< (8 * (n - k))) = 0 := by
  induction k with
  | zero => exact BitVec.shiftLeft_eq_zero (le_refl _)
  | succ k ih =>
    have hshift : 8 * (n - (k + 1)) + 8 = 8 * (n - k) := by omega
    calc crcCompute (crcTable P) (beBytes (k + 1) c.toNat) (c <<< (8 * (n - (k + 1))))
        = crcCompute (crcTable P) (beBytes k c.toNat)
            (crcUpd (crcTable P) (c <<< (8 * (n - (k + 1)))) (BitVec.ofNat 8 (c.toNat / 256 ^ k))) := rfl
      _ = crcCompute (crcTable P) (beBytes k c.toNat) (c <<< (8 * (n - k))) := by
          rw [byte_eq_top c hk, crcUpd_top, ← BitVec.shiftLeft_add, hshift]
      _ = 0 := ih (by omega)

/-- Settles O6: the accumulator is the checksum when its own bytes follow. The byte `01` has CRC-16 `1021`, and with the low
byte first it leaves a residue. -/
theorem crcResidueIsZero : Obligations.CrcResidueIsZero := by
  refine ⟨fun n P bytes initial _ => ?_, [0x01], ?_⟩
  · have h := crcCompute_own_bytes P (crcCompute (crcTable P) bytes initial) (le_refl n)
    rw [Nat.sub_self, Nat.mul_zero, BitVec.shiftLeft_zero] at h
    rwa [crcCompute, List.foldl_append]
  · simp only [crc16_eq_crcBitwise]
    decide +kernel

end Sys2Proof.Machine
end

section
/-! The simple packet (O7 to O15; 41_simple_packet) and the cases outside the rules (O50). -/

namespace Sys2Proof.Machine

/-! The framer's step, state by state (41_simple_packet R104 to R112). -/

/-- A mismatch in the sync search is the framer as it was armed (41_simple_packet R104). -/
theorem step_hunt0 {f : Framer} (hst : f.st = .hunt0) (b : Byte) :
    f.step (.byte b) = (if b = 0xAA then { f with st := .hunt1, raw := [0xAA] } else f.arm, none) := by
  rw [Framer.step, if_neg (by simp [hst])]
  simp only [Framer.onByte, hst]
  split <;> rename_i h
  · exact congrArg (·, none) (if_pos h).symm
  · exact congrArg (·, none) (if_neg h).symm

/-- A second sync byte that does not match is not looked at again (41_simple_packet R105). -/
theorem step_hunt1 {f : Framer} (hst : f.st = .hunt1) (b : Byte) :
    f.step (.byte b) = (if b = 0x55 then { f with st := .cmd, raw := f.raw ++ [0x55] } else f.arm, none) := by
  rw [Framer.step, if_neg (by simp [hst])]
  simp only [Framer.onByte, hst]
  split <;> rename_i h
  · exact congrArg (·, none) (if_pos h).symm
  · exact congrArg (·, none) (if_neg h).symm

theorem step_cmd {f : Framer} (hst : f.st = .cmd) (b : Byte) :
    f.step (.byte b) = ({ f with cmd := b, raw := f.raw ++ [b], st := .len0 }, none) := by
  rw [Framer.step, if_neg (by simp [hst])]
  simp only [Framer.onByte, hst]

/-- The error of a time-out depends on whether the sync was found (41_simple_packet R111). -/
theorem step_timeout {f : Framer} (hst : f.st ≠ .idle) : f.step .timeout =
    (f.quiet, some (.error (if f.st.hunting then .frameSyncTimeout else .transport .shortRead))) := if_neg hst

theorem step_fail {f : Framer} (hst : f.st ≠ .idle) :
    f.step .fail = (f.quiet, some (.error (.transport .channelFailure))) := if_neg hst

theorem startPayload_of_zero {f : Framer} (h : f.len = 0) :
    f.startPayload = ({ f with st := .idle }, some (.ok ⟨f.cmd, [], f.raw, f.hlen.toNat⟩)) := by
  simp [Framer.startPayload, h, Framer.complete, Framer.packet, Framer.payload]

theorem startPayload_of_ne_zero {f : Framer} (h : f.len ≠ 0) : f.startPayload = ({ f with st := .payload }, none) :=
  if_neg h

/-- A second length byte is announced for the reserved command only, by the highest bit (30_encoding R65). -/
theorem twoLengthBytes_iff (cmd b : Byte) : twoLengthBytes cmd b = true ↔ cmd = 0x56 ∧ 128 ≤ b.toNat := by
  rw [twoLengthBytes, Bool.and_eq_true, continues_iff, beq_iff_eq]
  rfl

theorem lenHigh_eq {b : Byte} (h : 128 ≤ b.toNat) : lenHigh b = BitVec.ofNat 15 ((b.toNat - 128) * 256) := by
  have hlow : lenTwo b 0#8 = lenHigh b := BitVec.or_zero
  have hlt := b.isLt
  apply BitVec.eq_of_toNat_eq
  rw [← hlow, lenTwo_toNat, BitVec.toNat_zero, BitVec.toNat_ofNat]
  omega

/-- Settles O15: an error leaves the framer quiet, and which error it is depends on the state. -/
theorem framerErrorsEndTheReceive : Obligations.FramerErrorsEndTheReceive := by
  refine fun f => ⟨fun hst => ?_, fun hst => ?_, fun hst => step_fail hst⟩
  · obtain hst | hst := hst <;> rw [step_timeout (by simp [hst]), hst] <;> rfl
  · obtain hst | hst | hst | hst := hst <;> rw [step_timeout (by simp [hst]), hst] <;> rfl

/-- Settles O13: one lemma for each state, and `startPayload` after the length field, with a payload announced or without. -/
theorem framerParsesHeaderAndPayload : Obligations.FramerParsesHeaderAndPayload := by
  refine fun f b => ⟨fun hst => step_cmd hst b, fun hst hcmd hb => ?_, fun hst hone hb => ?_, fun hst hb => ?_,
    fun hst hlen => ?_, fun hst hlen => ?_, fun hst hgo => step_payload_more hst hgo b,
    fun hst hend => step_payload_last hst hend b⟩
  · rw [step_len0_two hst ((twoLengthBytes_iff _ _).mpr ⟨hcmd, hb⟩), lenHigh_eq hb]
  · have htwo : twoLengthBytes f.cmd b = false := by
      rw [← Bool.not_eq_true, twoLengthBytes_iff]
      exact fun ⟨hcmd, hbit⟩ => hone.elim (· hcmd) (not_lt.mpr hbit)
    have hlen : b.setWidth 15 ≠ 0 := fun h => hb (by bv_omega)
    rw [step_len0_one hst htwo, startPayload_of_ne_zero (by exact hlen), BitVec.ofNat_toNat]
  · subst hb
    rw [step_len0_one hst (by simp [twoLengthBytes, continues]), startPayload_of_zero rfl]
    rfl
  · rw [step_len1 hst, startPayload_of_ne_zero (by exact hlen)]
  · rw [step_len1 hst, startPayload_of_zero (by exact hlen), hlen]
    rfl

/-! `SP.TX` and `SP.STEP`. -/

/-- Settles O7. -/
theorem spTxPutsHeaderFirst : Obligations.SpTxPutsHeaderFirst := fun cmd payload s => by
  have hexec : exec (.spTx cmd payload) s = .next (s.ret .owner (.bytes (spTx cmd payload))) := rfl
  rw [hexec, spTx, List.append_assoc]
  rfl

/-- `SP.STEP` without an outcome hands over the framer's next state (41_simple_packet R118). -/
theorem exec_spStep_of_none {e : ChanEvent} {s : State} {g : Framer} (hst : s.sp.st ≠ .idle)
    (hstep : s.sp.step e = (g, none)) : exec (.spStep e) s =
      .next { s with sp := g, reports := s.reports ++ [⟨.owner, .ok (.framer g.st)⟩] } := by
  simp only [exec, execSpStep, if_neg hst, hstep]
  rw [framerEvent_of_none (s := s.report .owner (.ok (.framer g.st))) hstep]
  rfl

/-- `SP.STEP` with an outcome hands it over, and an `SP.RX` that waits ends with it too (41_simple_packet R118; log 10). -/
theorem exec_spStep_of_outcome {e : ChanEvent} {s : State} {g : Framer} {o : Except Err Packet} (hst : s.sp.st ≠ .idle)
    (hstep : s.sp.step e = (g, some o)) (htask : s.task = some []) : exec (.spStep e) s =
      .next { s with
        sp := g, task := none, reports := s.reports ++ [⟨.owner, resOf .packet o⟩, ⟨.owner, resOf .packet o⟩] } := by
  simp only [exec, execSpStep, if_neg hst, hstep]
  rw [framerEvent_of_outcome (s := s.report .owner (resOf .packet o)) hstep htask]
  simp [State.unwind, State.report]

/-- Settles O12: the framer's step in the two states of the search gives no outcome. -/
theorem spStepHuntsForSync : Obligations.SpStepHuntsForSync := by
  refine fun b s => ⟨fun hst => ?_, fun hst => ?_⟩
  · rw [exec_spStep_of_none (by simp [hst]) (step_hunt0 hst b)]
    split <;> rfl
  · rw [exec_spStep_of_none (by simp [hst]) (step_hunt1 hst b)]
    split <;> rfl

/-- Settles O14. -/
theorem spStepCompletesOutsideIdle : Obligations.SpStepCompletesOutsideIdle := fun _ _ hst =>
  ⟨fun h => exec_spStep_of_none hst (Prod.ext rfl h), fun _ h htask => exec_spStep_of_outcome hst (Prod.ext rfl h) htask,
    fun _ h htask => exec_spStep_of_outcome hst (Prod.ext rfl h) htask⟩

/-! `SP.RX` and `EXT.RX`. -/

theorem exec_spRx (s : State) : exec .spRx s = .next (s.receive []) := rfl

theorem exec_extRx (sub : Byte) (c : Checks) (s : State) : exec (.extRx sub c) s = .next (s.receive [.decode sub c]) := rfl

theorem receive_of_busy {s : State} (h : s.sp.st ≠ .idle) (fs : List Frame) : s.receive fs = s.raise .owner .busy :=
  if_pos h

/-- The state in which a receive has just begun: the framer armed, and the operation waiting in its frames. -/
def State.listening (fs : List Frame) (s : State) : State := { s with sp := s.sp.arm, task := some fs }

theorem receive_of_idle {s : State} (h : s.sp.st = .idle) (fs : List Frame) : s.receive fs = (s.listening fs).settle :=
  if_neg (not_not.mpr h)

/-- An `SP.RX` ends with the outcome that the channel's bytes bring the framer to, and what follows stays in the channel
(41_simple_packet R102, R113). -/
theorem exec_spRx_of_feed {s : State} {w : Bytes} {es : List Event} {g : Framer} {o : Except Err Packet}
    (hidle : s.sp.st = .idle) (hread : s.reading = false) (hrx : s.chan.rx = byteEvents w ++ es)
    (hfeed : s.sp.arm.feed w = (g, some o, [])) : exec .spRx s = .next { s with
      sp := g, task := none, chan := { s.chan with rx := es }
      reports := s.reports ++ [⟨.owner, resOf .packet o⟩] } := by
  rw [exec_spRx, receive_of_idle hidle, settle_feed (s := s.listening []) (by simp [State.listening]) rfl hread hrx hfeed,
    settle_of_not_waiting _ (by simp [State.waiting, State.framing, State.unwind, State.listening, hread])]
  rfl

/-- Settles O11: the framer outside `IDLE` is what the receives and the exchange look at first. -/
theorem receiveInProgressIsBusy : Obligations.ReceiveInProgressIsBusy := by
  refine fun sub payload c s hst => ⟨congrArg _ (receive_of_busy hst _), congrArg _ (receive_of_busy hst _), ?_⟩
  have hstart : s.startXchg sub payload = (some .busy, s) := if_pos hst
  have hlaunch : launch (.xchg sub payload c) [] s = .done (.error .busy) s := by
    simp [launch, startHost, State.request, hstart, inSession]
  have hinvoke : s.invoke (.xchg sub payload c) = s.report .owner (.error .busy) := by rw [State.invoke, hlaunch]; rfl
  exact congrArg _ hinvoke

/-- Settles O8: with no event the operation waits; the framer's error is an outcome that goes up its frames. -/
theorem receiveWaitsOrRaisesFramerErrors : Obligations.ReceiveWaitsOrRaisesFramerErrors := by
  refine fun sub c s hidle => ⟨fun hrx => ?_, fun e x rest i hread hrx he hi => ?_⟩
  · have hwait : ∀ fs, s.receive fs = s.listening fs := fun fs =>
      (receive_of_idle hidle fs).trans (settle_of_empty _ hrx)
    exact ⟨congrArg _ (hwait _), congrArg _ (hwait _)⟩
  · have hstep : s.sp.arm.step e = (s.sp.quiet, some (.error x)) := by
      obtain ⟨rfl, rfl⟩ | ⟨rfl, rfl⟩ := he <;> rfl
    have hend : ∀ fs, s.receive fs = (State.unwind fs (.error x)
        (State.withRx rest { s with sp := s.sp.quiet, task := some fs })).settle := fun fs =>
      (receive_of_idle hidle fs).trans
        (settle_framer_outcome (s := s.listening fs) (by simp [State.listening]) rfl hread hrx hstep)
    obtain rfl | rfl := hi
    · rw [exec_spRx, hend, settle_of_not_waiting _ (by simp [State.waiting, State.framing, State.unwind, hread])]
      rfl
    · rw [exec_extRx, hend,
        settle_of_not_waiting _ (by simp [State.waiting, State.framing, State.unwind, Frame.resume, hread])]
      rfl

/-! Resynchronisation (41_simple_packet R114). -/

/-- Bytes without the sync that do not end in its first byte leave an armed framer as it was armed. The search looks at two
bytes at a time after an `AA`, and at one after any other byte. -/
theorem feed_noise (f : Framer) {g : Bytes} (hsync : ¬ [(0xAA : Byte), 0x55] <:+: g) (hlast : g.getLast? ≠ some 0xAA)
    (bs : Bytes) : f.arm.feed (g ++ bs) = f.arm.feed bs := by
  have skip : ∀ {b : Byte} (_ : b ≠ 0xAA) (w : Bytes), f.arm.feed (b :: w) = f.arm.feed w := fun hb w =>
    feed_of_none ((step_hunt0 rfl _).trans (by rw [if_neg hb]; rfl)) w
  induction g using List.twoStepInduction with
  | nil => rfl
  | singleton b => exact skip (by simpa using hlast) bs
  | cons_cons b c cs ih ih' =>
    by_cases hb : b = 0xAA
    · subst hb
      have hc : c ≠ 0x55 := fun h => hsync ⟨[], cs, by simp [h]⟩
      have hmiss : Framer.step { f.arm with st := .hunt1, raw := [0xAA] } (.byte c) = (f.arm, none) :=
        (step_hunt1 rfl c).trans (by rw [if_neg hc]; rfl)
      calc f.arm.feed (0xAA :: c :: (cs ++ bs))
          = Framer.feed { f.arm with st := .hunt1, raw := [0xAA] } (c :: (cs ++ bs)) := feed_of_none (step_hunt0 rfl _) _
        _ = f.arm.feed (cs ++ bs) := feed_of_none hmiss _
        _ = f.arm.feed bs := ih (fun h => hsync (h.trans ⟨[0xAA, c], [], by simp⟩))
            (fun h => hlast (by simp [List.getLast?_cons, h]))
    · exact (skip hb _).trans (ih' c (fun h => hsync (h.trans ⟨[b], [], by simp⟩))
        (fun h => hlast (by rw [List.getLast?_cons_cons, h])))

/-- Settles O10: the framer skips the noise, and takes the packet as it does right after arming. -/
theorem spRxSkipsNoiseBeforeSync : Obligations.SpRxSkipsNoiseBeforeSync := by
  intro g cmd payload raw rest s hsync hlast hidle hread hrx
  have hskip : s.sp.arm.feed (g ++ raw) = s.sp.arm.feed (raw ++ []) := by rw [feed_noise _ hsync hlast, List.append_nil]
  exact ⟨fun hlt hraw => exec_spRx_of_feed hidle hread hrx (hskip.trans (feed_sprx_short rfl hlt hraw [])),
    fun hle hraw => exec_spRx_of_feed hidle hread hrx (hskip.trans (feed_sprx_long rfl hle hraw []))⟩

/-- Settles O9: the packet with no noise in front of it. -/
theorem spRxReturnsThePacket : Obligations.SpRxReturnsThePacket := fun cmd payload raw rest s hidle hread hrx =>
  spRxSkipsNoiseBeforeSync [] cmd payload raw rest s (by simp) (by simp) hidle hread hrx

/-! Cases outside the rules. -/

theorem objection_of_chunk {op : HostOp} (h : chunked op = false) (s : State) : s.objection op = some .chunkSizeZero := by
  simp [State.objection, h]

theorem objection_of_capability {op : HostOp} {s : State} (hchunk : chunked op = true)
    (h : s.device.serves (opCapability op) = false) : s.objection op = some .outsideCapabilities := by
  simp [State.objection, hchunk, h]

theorem perform_refused {op : HostOp} {s : State} {r : Refusal} (h : s.objection op = some r) :
    s.perform op = .refused r := by
  rw [State.perform, h]

theorem exec_retry_refused {op : HostOp} {policy : RetryPolicy} {s : State} {r : Refusal} (hmax : 0 < policy.max)
    (h : s.objection op = some r) : exec (.retry op policy) s = .refused r := by
  simp only [exec, execRetry, if_neg hmax.ne', h]

/-- No reply has a payload above the length that its fields can announce (30_encoding R65, 42_extended_packet R127). -/
theorem extReply_overlong (p : Params) (sub : Byte) {payload : Bytes} (h : 32767 < payload.length) :
    ∃ e, extReply p sub payload = .error e := by
  cases hreply : extReply p sub payload with
  | error e => exact ⟨e, rfl⟩
  | ok wire =>
    exfalso
    unfold extReply at hreply
    split at hreply
    · cases hreply
    · rename_i body hbody
      split at hreply
      · cases hreply
      · rename_i outer houter
        have hfits := extLenEnc_le houter
        obtain ⟨-, enc, -, -, -, rfl⟩ | ⟨-, rfl⟩ := replyBody_cases hbody <;> simp at hfits <;> omega

/-- The operations that only a primary device has (44_host_protocols R202), whatever their operands. -/
def primaryOps (a : InitArgs) (n w : Nat) (bytes : Bytes) (c : Checks) (run : RunOption) (u : UploadArgs)
    (d : DownloadArgs) : List HostOp :=
  [.init a, .write n bytes, .read n w c, .complete run, .upload u, .download d] ++
    namedSubs.map fun code => .command code bytes c

/-- A legacy device has the capability for none of them. -/
theorem objection_of_legacy (a : InitArgs) (n w : Nat) (bytes : Bytes) (c : Checks) (run : RunOption) {u : UploadArgs}
    {d : DownloadArgs} {s : State} (hdevice : s.device = .legacy) (hu : 0 < u.chunk) (hd : 0 < d.chunk) :
    ∀ op ∈ primaryOps a n w bytes c run u d, s.objection op = some .outsideCapabilities := by
  have lacks : ∀ {op : HostOp}, chunked op = true → DeviceKind.legacy.serves (opCapability op) = false →
      s.objection op = some .outsideCapabilities := fun hchunk h => objection_of_capability hchunk (by rw [hdevice, h])
  have hsubs : ∀ code ∈ namedSubs, DeviceKind.legacy.serves (subCapability code) = false := by decide
  have hupload : chunked (.upload u) = true := bne_iff_ne.mpr hu.ne'
  have hdownload : chunked (.download d) = true := bne_iff_ne.mpr hd.ne'
  simp only [primaryOps, List.forall_mem_append, List.forall_mem_cons, List.forall_mem_map]
  exact ⟨⟨lacks rfl rfl, lacks rfl rfl, lacks rfl rfl, lacks rfl rfl, lacks hupload rfl, lacks hdownload rfl,
    fun _ h => (List.not_mem_nil h).elim⟩, fun code h => lacks rfl (hsubs code h)⟩

/-- Their rows are refused on a legacy device (44_host_protocols R202; log 37). -/
theorem exec_primaryOp_of_legacy (a : InitArgs) (n w : Nat) (bytes : Bytes) (c : Checks) (run : RunOption) {u : UploadArgs}
    {d : DownloadArgs} {i : Instr} {s : State} (hdevice : s.device = .legacy) (hu : 0 < u.chunk) (hd : 0 < d.chunk)
    (hi : i ∈ (primaryOps a n w bytes c run u d).filterMap opInstr) : exec i s = .refused .outsideCapabilities := by
  obtain ⟨op, hop, hrow⟩ := List.mem_filterMap.mp hi
  rw [exec_opInstr hrow]
  exact perform_refused (objection_of_legacy a n w bytes c run hdevice hu hd op hop)

/-- Settles O50: each clause is the branch of its operation that asks for the case. -/
theorem casesOutsideTheRulesStopByName : Obligations.CasesOutsideTheRulesStopByName := by
  intro op choice policy u d w t b sub bytes n a c run boot s
  refine ⟨fun e hst => if_pos hst, fun hread => if_pos hread, rfl, fun hu => ?_, fun hd => ?_,
    fun hw => ⟨if_pos hw, if_pos hw⟩, fun hlen => if_neg ?_, fun hlen => ⟨if_neg (not_le.mpr hlen), ?_⟩,
    fun hbad => if_neg ?_, fun hdevice hu hd i hi => ?_, fun hmax => ⟨fun hdevice => ?_, fun hdevice => ?_,
      fun hdevice hlen => ?_⟩⟩
  · exact perform_refused (objection_of_chunk (by simp [chunked, hu]) s)
  · exact perform_refused (objection_of_chunk (by simp [chunked, hd]) s)
  · split <;> omega
  · obtain ⟨e, he⟩ := extReply_overlong s.params sub hlen
    simp only [exec, execFExtRx, he]
  · rintro ⟨hlen, hzero⟩
    exact hbad.elim (not_lt.mpr hlen) (by simpa using hzero)
  · exact exec_primaryOp_of_legacy a n w bytes c run hdevice hu hd hi
  · exact exec_retry_refused hmax (objection_of_capability rfl (by rw [hdevice]; cases boot <;> rfl))
  · exact exec_retry_refused hmax (objection_of_capability rfl (by rw [hdevice]; rfl))
  · refine exec_retry_refused hmax ?_
    have hserves : DeviceKind.legacy.serves (opCapability (.boot (.programWrite n bytes))) = true := rfl
    have hshort : bootShort (.programWrite n bytes) = false := decide_eq_false (not_le.mpr hlen)
    simp [State.objection, chunked, hdevice, hserves, hshort]

end Sys2Proof.Machine
end

section
/-! The extended packet (O17, O19 to O24; 42_extended_packet): the length field, the frame, the decoder's tests in their order,
the acknowledgment byte, and the reply. -/

namespace Sys2Proof.Machine

/-! The length field and the frame (42_extended_packet R121, R123). -/

theorem extLenEnc_overlong {n : Nat} (h : 32767 < n) : extLenEnc n = .error (.lengthOverflow n) := if_pos h

theorem extTx_overlong (sub : Byte) {payload : Bytes} (h : 32767 < payload.length) :
    extTx sub payload = .error (.lengthOverflow payload.length) := by
  rw [extTx, extLenEnc_overlong h]

/-- The frame: header, reserved command, sub-command, length field, payload, and the CRC-16 of all that. -/
theorem extTx_eq (sub : Byte) {payload enc : Bytes} (h : extLenEnc payload.length = .ok enc) :
    extTx sub payload = .ok (withTrailer ([0xC9, 0x36, 0xB8, 0x47, 0x56, sub] ++ enc ++ payload)) := by
  rw [extTx, h]
  rfl

/-- A frame that there is has a length field in it. -/
theorem extTx_ok {sub : Byte} {payload wire : Bytes} (h : extTx sub payload = .ok wire) :
    ∃ enc, extLenEnc payload.length = .ok enc ∧
      wire = withTrailer ([0xC9, 0x36, 0xB8, 0x47, 0x56, sub] ++ enc ++ payload) := by
  cases henc : extLenEnc payload.length with
  | error e => rw [extTx, henc] at h; cases h
  | ok enc =>
    rw [extTx_eq sub henc] at h
    cases h
    exact ⟨enc, rfl, rfl⟩

/-- A reply ends with the CRC-16 of what comes before it (42_extended_packet R127). -/
theorem extReply_ok {p : Params} {sub : Byte} {payload wire : Bytes} (h : extReply p sub payload = .ok wire) :
    ∃ bytes, wire = withTrailer bytes := by
  unfold extReply at h
  split at h
  · cases h
  · split at h
    · cases h
    · cases h
      exact ⟨_, rfl⟩

/-- Settles O17: the encoder's three branches. -/
theorem lengthEncodingHasItsBoundary : Obligations.LengthEncodingHasItsBoundary := by
  intro n s
  have hexec : exec (.extLenEnc n) s = .next (s.report .owner (resOf .bytes (extLenEnc n))) := rfl
  rw [hexec]
  refine ⟨fun hlt => ?_, fun hle hmax => ?_, fun hover => ?_⟩
  · obtain ⟨-, h⟩ | ⟨hle, -⟩ := extLenEnc_cases (n := n) (by omega)
    · rw [h]; rfl
    · omega
  · obtain ⟨hlt, -⟩ | ⟨-, h⟩ := extLenEnc_cases hmax
    · omega
    · rw [h]; rfl
  · rw [extLenEnc_overlong hover]; rfl

theorem exec_extTx (sub : Byte) (payload : Bytes) (s : State) :
    exec (.extTx sub payload) s = .next (s.report .owner (resOf .bytes (extTx sub payload))) := rfl

/-- Settles O19: the frame with its trailer, whose table form is the bit-serial one. -/
theorem extTxAssemblesTheFrame : Obligations.ExtTxAssemblesTheFrame := by
  refine fun sub payload s => ⟨fun hle => ?_, fun hover => ?_⟩
  · obtain ⟨enc, henc⟩ : ∃ enc, extLenEnc payload.length = .ok enc := by
      obtain ⟨-, h⟩ | ⟨-, h⟩ := extLenEnc_cases hle <;> exact ⟨_, h⟩
    refine ⟨enc, _, _, henc, rfl, rfl, ?_⟩
    rw [exec_extTx, extTx_eq sub henc, withTrailer, crc16_eq_crcBitwise]
    rfl
  · rw [exec_extTx, extTx_overlong sub hover]
    rfl

/-! The decoder's tests (42_extended_packet R124). -/

theorem crcZero_iff (raw : Bytes) : crcZero raw = true ↔ crcBitwise 0x1021#16 raw 0 = 0 := by
  rw [crcZero, crc16_eq_crcBitwise, beq_iff_eq]

theorem extDecode_of_other_command {pk : Packet} (h : pk.cmd ≠ 0x56) (p : Params) (sub : Byte) (c : Checks) :
    extDecode p pk sub c = .error (.unexpectedCommand pk.cmd) := if_pos h

section AfterTheCommand

variable {p : Params} {pk : Packet} {sub : Byte} {c : Checks}

theorem extDecode_of_mismatch (hcmd : pk.cmd = 0x56) (h : crcBitwise 0x1021#16 pk.raw 0 ≠ 0) :
    extDecode p pk sub c = .error .checksumMismatch := by
  have hcrc : crcZero pk.raw = false := by rwa [← Bool.not_eq_true, crcZero_iff]
  have hext : ¬ pk.cmd ≠ Config.extCmd := not_not.mpr hcmd
  rw [extDecode, if_neg hext, if_pos hcrc]

/-- With the command and the checksum as they should be, the body is what is left to test. -/
theorem extDecode_of_zero (hcmd : pk.cmd = 0x56) (hcrc : crcBitwise 0x1021#16 pk.raw 0 = 0) :
    extDecode p pk sub c =
      if pk.payload.length < minBody p then .error .unexpectedLength
      else if pk.payload.headD 0 ≠ sub then .error (.unexpectedSubCommand (pk.payload.headD 0))
      else extInner p pk.payload >>= fun body => extAck p c body >>= extExact c := by
  have hzero : ¬ crcZero pk.raw = false := by rwa [Bool.not_eq_false, crcZero_iff]
  have hext : ¬ pk.cmd ≠ Config.extCmd := not_not.mpr hcmd
  rw [extDecode, if_neg hext, if_neg hzero]
  congr 2
  cases extInner p pk.payload with
  | error e => rfl
  | ok body =>
    simp only [bind, Except.bind]
    cases extAck p c body <;> rfl

/-- The inner length field, when it accounts for the body, leaves the ACK test and the exact-length test to come; when it does
not, the length is what is reported. -/
theorem extDecode_body {n : Nat} {enc body : Bytes} {t0 t1 : Byte} (hinner : p.innerLen = true)
    (henc : extLenEnc n = .ok enc) (hcmd : pk.cmd = 0x56) (hpayload : pk.payload = [sub] ++ enc ++ body ++ [t0, t1])
    (hcrc : crcBitwise 0x1021#16 pk.raw 0 = 0) :
    extDecode p pk sub c =
      if n = body.length then extAck p c body >>= extExact c else .error .unexpectedLength := by
  have hone : 1 ≤ enc.length := by
    obtain ⟨-, h⟩ | ⟨-, h⟩ := extLenEnc_cases (extLenEnc_le henc) <;> rw [h] at henc <;> cases henc <;> simp
  have hlong : ¬ pk.payload.length < minBody p := by simp [hpayload, minBody, hinner]; omega
  have hsub : ¬ pk.payload.headD 0 ≠ sub := by simp [hpayload]
  rw [extDecode_of_zero hcmd hcrc, if_neg hlong, if_neg hsub]
  split
  · next heq =>
    have hreply : replyBody p sub body = .ok ([sub] ++ enc ++ body) := by rw [replyBody, if_pos hinner, ← heq, henc]
    rw [hpayload, (extInner_replyBody hreply t0 t1).2.2]
    rfl
  · next hne =>
    have hdec : extLenDec (pk.payload.drop 1) = .ok (n, enc.length) := by
      simpa [hpayload] using extLenDec_extLenEnc henc (body ++ [t0, t1])
    have hoff : 1 + enc.length + n + 2 ≠ pk.payload.length := by simp [hpayload]; omega
    have h : extInner p pk.payload = .error .unexpectedLength := by
      simp only [extInner, hinner, if_true, hdec, if_pos hoff]
    rw [h]
    rfl

end AfterTheCommand

/-- What the decoder gives is what the operation reports. -/
theorem exec_extDecode_of_eq {pk : Packet} {sub : Byte} {c : Checks} {s : State} {x : Except Err Bytes}
    (h : extDecode s.params pk sub c = x) :
    exec (.extDecode pk sub c) s = .next (s.report .owner (resOf .bytes x)) := h ▸ rfl

/-- Settles O21: one branch of the decoder after another, each behind the ones before it. -/
theorem extDecodeReportsTheFirstFailure : Obligations.ExtDecodeReportsTheFirstFailure := by
  refine fun pk sub c s => ⟨fun hcmd => ?_, fun hcmd hcrc => ?_, fun hcmd hcrc hshort => ?_,
    fun b rest hcmd hcrc hpayload hlong hb => ?_⟩
  · exact exec_extDecode_of_eq (extDecode_of_other_command hcmd s.params sub c)
  · exact exec_extDecode_of_eq (extDecode_of_mismatch hcmd hcrc)
  · exact exec_extDecode_of_eq ((extDecode_of_zero hcmd hcrc).trans (if_pos hshort))
  · have hhead : pk.payload.headD 0 = b := by rw [hpayload]; rfl
    exact exec_extDecode_of_eq ((extDecode_of_zero hcmd hcrc).trans
      ((if_neg (not_lt.mpr hlong)).trans (by rw [hhead, if_pos hb])))

/-- Settles O22: the body's length decides first, then the ACK test on its first byte, then the exact-length test on the rest. -/
theorem extDecodeChecksLengthThenAck : Obligations.ExtDecodeChecksLengthThenAck := by
  intro enc body sub t0 t1 n c s hinner henc pk hcmd hpayload hcrc
  have hdec := extDecode_body (c := c) hinner henc hcmd hpayload hcrc
  refine ⟨fun hne => ?_, fun heq hack hnil => ?_, fun b rest e heq hack hcons hb => ?_, fun d heq hnack hbody => ?_⟩
  · exact exec_extDecode_of_eq (hdec.trans (if_neg hne))
  · have h : extAck s.params c body = .error (.unexpectedAck none) := by simp only [extAck, if_pos hack, hnil]
    exact exec_extDecode_of_eq (hdec.trans (by rw [if_pos heq, h]))
  · have h : extAck s.params c body = .error e := by simp only [extAck, if_pos hack, hcons, hb]
    exact exec_extDecode_of_eq (hdec.trans (by rw [if_pos heq, h]))
  · have h : extAck s.params c body = .ok d := hbody ▸ extAck_acked hnack c d
    have hexact : extDecode s.params pk sub c = extExact c d := hdec.trans (by rw [if_pos heq, h]; rfl)
    rw [exec_extDecode_of_eq hexact, extExact]
    split <;> rfl

/-- Settles O20: a trailer brings the CRC-16 to zero; and the wire of a request from its sixth byte on is a body whose length
field accounts for the payload. -/
theorem framesCheckToZeroAndDecodeBack : Obligations.FramesCheckToZeroAndDecodeBack := by
  have hzero : ∀ bytes, crcBitwise 0x1021#16 (withTrailer bytes) 0 = 0 := fun bytes => by
    rw [← crc16_eq_crcBitwise, crc16_withTrailer]
  refine fun p sub payload wire s => ⟨fun h => ?_, fun h => ?_, fun h hinner => ?_⟩
  · obtain ⟨enc, -, rfl⟩ := extTx_ok h
    exact hzero _
  · obtain ⟨bytes, rfl⟩ := extReply_ok h
    exact hzero bytes
  · obtain ⟨enc, henc, rfl⟩ := extTx_ok h
    exact exec_extDecode_of_eq ((extDecode_body hinner henc rfl rfl (hzero _)).trans (if_pos rfl))

/-! The acknowledgment byte (42_extended_packet R126). -/

theorem exec_ackDecode (b : Byte) (s : State) : exec (.ackDecode b) s = .next (s.ackByte b) := rfl

/-- Settles O24: the list is the catalogue, code by code. -/
theorem ackDecodeFollowsTheCatalogue : Obligations.AckDecodeFollowsTheCatalogue := by
  intro catalogue hcatalogue s
  have hcodes : ∀ e ∈ catalogue, e.1 = e.2.byte := by subst hcatalogue; decide
  have hall : catalogue.map Prod.fst = NackCode.all.map NackCode.byte := by subst hcatalogue; rfl
  rw [hall]
  refine ⟨fun e he => ?_, fun b hnot hb => ?_, fun b hnot hb => ?_⟩
  · rw [exec_ackDecode, hcodes e he, ackByte_of_nack (nackOfByte_byte e.2)]
    rfl
  · subst hb
    exact congrArg _ (ackByte_of_ack (nackOfByte_eq_none hnot))
  · exact congrArg _ (ackByte_of_other (nackOfByte_eq_none hnot) hb)

/-! The reply (42_extended_packet R125, R127). -/

/-- The bytes of the reply around the data `d` bring the framer `f` to `g`, with a packet that decodes to `d`. -/
def TakesReply (p : Params) (sub : Byte) (c : Checks) (d : Bytes) (f g : Framer) : Prop :=
  ∃ pk, f.feed (replyOf p sub (acked p c d)) = (g, some (.ok pk), []) ∧ extDecode p pk sub c = .ok d

/-- An armed framer takes every reply that a device can build, and is then in `IDLE` with the reply's bytes. -/
theorem takesReply_of_fit {p : Params} (hack : (nackOfByte p.ackByte).isNone) (sub : Byte) {c : Checks} {d : Bytes}
    (hfit : (acked p c d).length ≤ if p.innerLen then 32762 else 32764) (hlen : c.len = true → d.length = c.expectedLen)
    {f : Framer} (hst : f.st = .hunt0) :
    ∃ g : Framer, g.st = .idle ∧ g.raw = replyOf p sub (acked p c d) ∧ TakesReply p sub c d f g := by
  obtain ⟨pk, body, t0, t1, hpk, hreply, hcmd, hcrc, hpayload, hbody⟩ := extReply_packet sub hfit
  have hraw : replyOf p sub (acked p c d) = pk.raw := by rw [replyOf, hreply]
  obtain ⟨g, hidle, hg, hfeed⟩ := feed_sprx hst hpk []
  rw [List.append_nil] at hfeed
  exact ⟨g, hidle, hg.trans hraw.symm, pk, hraw ▸ hfeed, extDecode_reply hcmd hcrc hpayload hack hbody hlen⟩

/-- The reply in the channel ends the wait for it: its data goes up the frames behind `EXT.DECODE`, what follows it stays in the
channel, and the primary device leaves `Querying` (log 31). -/
theorem settle_of_reply {s : State} {sub : Byte} {c : Checks} {d : Bytes} {fs : List Frame} {rest : List Event} {g : Framer}
    (hst : s.sp.st ≠ .idle) (htask : s.task = some (.decode sub c :: fs)) (hread : s.reading = false)
    (hrx : s.chan.rx = byteEvents (replyOf s.params sub (acked s.params c d)) ++ rest)
    (h : TakesReply s.params sub c d s.sp g) :
    s.settle = (State.unwind fs (.ok (.bytes d)) { s.withRx rest with sp := g, querying := false }).settle := by
  obtain ⟨pk, hfeed, hdec⟩ := h
  exact (settle_feed hst htask hread hrx hfeed).trans (congrArg State.settle (unwind_decode_reply hdec))

/-- An outcome that has reached the owner leaves nothing to go on with. -/
theorem settle_of_ended {s : State} (hread : s.reading = false) (htask : s.task = none) : s.settle = s :=
  settle_of_not_waiting _ (by simp [State.waiting, State.framing, hread, htask])

/-- Settles O23: the receive that begins takes the reply, and its data goes to the caller. -/
theorem extRxReturnsTheReply : Obligations.ExtRxReturnsTheReply := by
  intro sub c d rest s hidle hread hack hfit hlen hrx
  obtain ⟨g, hg, hraw, htakes⟩ := takesReply_of_fit hack sub hfit hlen s.sp.arm_st
  refine ⟨g, hg, hraw, ?_⟩
  rw [exec_extRx, receive_of_idle hidle,
    settle_of_reply (s := s.listening [.decode sub c]) (by simp [State.listening]) rfl hread hrx htakes]
  exact congrArg _ (settle_of_ended hread rfl)

end Sys2Proof.Machine
end

section
/-! The exchange and its sub-commands (O35, O38, O39; 42_extended_packet R129 to R145). -/

namespace Sys2Proof.Machine

/-! Beginning a host operation. -/

theorem perform_of_unopposed {op : HostOp} {s : State} (h : s.objection op = none) : s.perform op = .next (s.invoke op) := by
  rw [State.perform, h]

/-- A primary device has the capability for every command (44_host_protocols R202). -/
theorem objection_command {s : State} (h : s.device = .primary) (code : Byte) (payload : Bytes) (c : Checks) :
    s.objection (.command code payload c) = none := by
  have hserves : DeviceKind.primary.serves (subCapability code) = true := by
    unfold subCapability
    split_ifs <;> rfl
  simp [State.objection, chunked, opCapability, h, hserves]

theorem request_of_wire {sub : Byte} {payload wire : Bytes} {s : State} (hidle : s.sp.st = .idle)
    (hwire : extTx sub payload = .ok wire) (haccept : s.accepts 1 = true) (fs : List Frame) :
    s.request sub payload fs = .wait fs (s.asked wire) := by
  simp only [State.request, State.startXchg, hidle, ne_eq, not_true_eq_false, if_false, hwire, chanWrite_accepted haccept]
  rfl

theorem request_of_error {sub : Byte} {payload : Bytes} {s : State} {e : Err} (hidle : s.sp.st = .idle)
    (h : extTx sub payload = .error e) (fs : List Frame) : s.request sub payload fs = .done (.error e) s := by
  simp only [State.request, State.startXchg, hidle, ne_eq, not_true_eq_false, if_false, h]

/-- A request that the channel fails ends the exchange before the framer is armed (60_exceptions R211). -/
theorem request_of_lost {sub : Byte} {payload wire : Bytes} {s : State} {n : Nat} {ws : List WriteAnswer}
    (hidle : s.sp.st = .idle) (hwire : extTx sub payload = .ok wire) (hlost : s.chan.writes = .failed n :: ws)
    (fs : List Frame) : s.request sub payload fs = .done (.error (.transport .channelFailure)) { s with
      querying := false, chan := { s.chan with tx := s.chan.tx ++ wire.take n, writes := ws } } := by
  simp only [State.request, State.startXchg, hidle, ne_eq, not_true_eq_false, if_false, hwire, State.chanWrite, hlost]

theorem launch_of_wait {op : HostOp} {s t : State} {fs : List Frame} (h : startHost op s = .wait fs t)
    (after : List Frame) : launch op after s = .wait (fs ++ after) t := by
  rw [launch, h]

theorem invoke_waits {op : HostOp} {s t : State} {fs : List Frame} (h : startHost op s = .wait fs t) :
    s.invoke op = State.settle { t with task := some fs } := by
  rw [State.invoke, launch_of_wait h, List.append_nil]
  rfl

/-- An exchange that ends with an error at once leaves a session as it is (log 20). -/
theorem invoke_xchg_of_error {sub : Byte} {payload : Bytes} {c : Checks} {s t : State} {e : Err}
    (h : s.request sub payload [.decode sub c] = .done (.error e) t) :
    s.invoke (.xchg sub payload c) = t.report .owner (.error e) := by
  have hlaunch : launch (.xchg sub payload c) [] s = .done (.error e) t := by simp only [launch, startHost, h]; rfl
  rw [State.invoke, hlaunch]
  rfl

theorem exec_extXchg (sub : Byte) (payload : Bytes) (c : Checks) (s : State) :
    exec (.extXchg sub payload c) s = .next (s.invoke (.xchg sub payload c)) :=
  perform_of_unopposed (op := .xchg sub payload c) rfl

theorem exec_subInstr_primary {s : State} (h : s.device = .primary) (code : Byte) (payload : Bytes) (c : Checks) :
    exec (subInstr code payload c) s = .next (s.invoke (.command code payload c)) :=
  (exec_subInstr code payload c s).trans (perform_of_unopposed (objection_command h code payload c))

/-! Requests that fail. -/

/-- Settles O35: each operation ends where its write fails or its request cannot be built. -/
theorem lostAndOverlongRequestsRaise : Obligations.LostAndOverlongRequestsRaise := by
  refine fun bytes sub c n ws s => ⟨fun hlost => ?_, fun hover hidle => ?_, fun hover => ?_,
    fun wire hlost hidle hwire => ?_⟩
  · have h : s.writeOut .writer bytes = State.raise .writer (.transport .channelFailure)
        { s with chan := { s.chan with tx := s.chan.tx ++ bytes.take n, writes := ws } } := by
      simp only [State.writeOut, State.chanWrite, hlost]
    exact congrArg _ h
  · rw [exec_extXchg, invoke_xchg_of_error (request_of_error hidle (extTx_overlong sub hover) _)]
    rfl
  · simp only [exec, execFExtTx, extTx_overlong sub hover]
    rfl
  · rw [exec_extXchg, invoke_xchg_of_error (request_of_lost hidle hwire hlost _)]
    rfl

/-! Requests that wait for their reply. -/

/-- With nothing in the channel, the operation waits as it began. -/
theorem invoke_of_request {op : HostOp} {sub : Byte} {payload wire : Bytes} {fs : List Frame} {s : State}
    (hidle : s.sp.st = .idle) (haccept : s.accepts 1 = true) (hrx : s.chan.rx = [])
    (hop : startHost op s = s.request sub payload fs) (hwire : extTx sub payload = .ok wire) :
    s.invoke op = { s.asked wire with task := some fs } := by
  rw [invoke_waits (hop.trans (request_of_wire hidle hwire haccept fs))]
  exact settle_of_empty _ hrx

/-- Outside a session a request takes the primary device to `Querying` (44_host_protocols R198). -/
theorem asked_primary {s : State} (h : s.ft = none) (wire : Bytes) (fs : Option (List Frame)) :
    State.primary { s.asked wire with task := fs } = .querying := by
  simp [State.primary, State.asked, h]

/-- The row of an operation that is one request leaves it waiting for the reply, and the primary device in `Querying`. -/
theorem exec_of_request {i : Instr} {op : HostOp} {sub : Byte} {payload wire : Bytes} {fs : List Frame} {s t : State}
    (hidle : s.sp.st = .idle) (haccept : s.accepts 1 = true) (hrx : s.chan.rx = [])
    (hexec : exec i s = .next (s.invoke op)) (hop : startHost op s = s.request sub payload fs)
    (hwire : extTx sub payload = .ok wire) (ht : t = { s.asked wire with task := some fs }) :
    exec i s = .next t ∧ (s.ft = none → t.primary = .querying) := by
  subst ht
  exact ⟨hexec.trans (congrArg _ (invoke_of_request hidle haccept hrx hop hwire)), fun hft => asked_primary hft wire _⟩

/-- Settles O38: every row is an exchange of its code, and only the status query's has a second frame. -/
theorem exchangesWriteTheirRequest : Obligations.ExchangesWriteTheirRequest := by
  intro payload wire c s t hidle haccept hrx
  refine ⟨fun sub i hi hwire ht => ?_, fun hdevice e he hwire ht => ?_, fun hdevice hwire ht => ?_⟩
  · have hexec : exec i s = .next (s.invoke (.xchg sub payload c)) := by
      simp only [List.mem_cons, List.not_mem_nil, or_false] at hi
      obtain rfl | rfl := hi <;> exact exec_extXchg sub payload c s
    exact exec_of_request hidle haccept hrx hexec rfl hwire ht
  · obtain ⟨hrow, hkeep⟩ : e.2 = subInstr e.1 payload c ∧ keepFrames e.1 = [] := by
      simp only [List.mem_cons, List.not_mem_nil, or_false] at he
      rcases he with rfl | rfl | rfl | rfl | rfl | rfl | rfl | rfl | rfl | rfl | rfl | rfl | rfl <;> exact ⟨rfl, rfl⟩
    have hop : startHost (.command e.1 payload c) s = s.request e.1 payload [.decode e.1 c] := by
      simp only [startHost, hkeep]
    exact exec_of_request hidle haccept hrx (hrow ▸ exec_subInstr_primary hdevice e.1 payload c) hop hwire ht
  · exact exec_of_request hidle haccept hrx (exec_subInstr_primary hdevice 0x22 payload c) rfl hwire ht

/-! Exchanges with their reply. -/

/-- An operation that waits for a reply that the channel holds goes on with the reply's data. -/
theorem settle_asked_of_reply {s : State} {sub : Byte} {wire d : Bytes} {c : Checks} {fs : List Frame} {rest : List Event}
    {g : Framer} (hread : s.reading = false)
    (hrx : s.chan.rx = byteEvents (replyOf s.params sub (acked s.params c d)) ++ rest)
    (htakes : TakesReply s.params sub c d s.sp.arm g) (attempt : Nat) :
    ((s.asked wire).awaits (.decode sub c :: fs) attempt).settle =
      (State.unwind fs (.ok (.bytes d)) { ((s.asked wire).awaits (.decode sub c :: fs) attempt).withRx rest with
        sp := g, querying := false }).settle :=
  settle_of_reply (by simp [State.awaits, State.asked]) rfl hread hrx htakes

/-- Settles O39: the wait ends with the reply's data, which the frame of the status query keeps; and where the snapshot is, no
attempt waits. -/
theorem exchangeReturnsTheReply : Obligations.ExchangeReturnsTheReply := by
  intro sub payload d kept c policy rest s hidle hread haccept hack hpayload hfit hlen hmax
  have hobj : s.device = .primary → s.objection (.status payload c) = none := fun h => by
    simp [State.objection, chunked, opCapability, h, DeviceKind.serves, DeviceKind.capabilities]
  refine ⟨fun hrx => ?_, fun hdevice hrx => ?_, fun hdevice hkept => ?_⟩
  · obtain ⟨g, hg, -, htakes⟩ := takesReply_of_fit hack sub hfit hlen s.sp.arm_st
    have hstart := request_of_wire hidle (extTx_of_length hpayload sub) haccept [.decode sub c]
    refine ⟨g, hg, ?_⟩
    rw [exec_extXchg, invoke_waits (op := .xchg sub payload c) hstart]
    refine congrArg _ ((settle_asked_of_reply hread hrx htakes s.attempt).trans ?_)
    exact settle_of_ended hread rfl
  · obtain ⟨g, hg, -, htakes⟩ := takesReply_of_fit hack 0x22 hfit hlen s.sp.arm_st
    have hstart := request_of_wire hidle (extTx_of_length hpayload 0x22) haccept [.decode 0x22 c, .keepStatus]
    refine ⟨g, hg, ?_⟩
    rintro t rfl
    refine ⟨?_, fun hnone => ?_⟩
    · refine (exec_subInstr_primary hdevice 0x22 payload c).trans (congrArg _ ?_)
      rw [invoke_waits (op := .command 0x22 payload c) hstart]
      exact (settle_asked_of_reply hread hrx htakes s.attempt).trans (settle_of_ended hread rfl)
    · have hstatus : startHost (.status payload c) s = s.request 0x22 payload [.decode 0x22 c, .keepStatus] := by
        simp only [startHost, hnone]
      have hlaunch := launch_of_wait (hstatus.trans hstart) []
      rw [exec_retry (by omega) (hobj hdevice), attempts_of_wait (attemptOnce_of_wait hlaunch policy 1)]
      exact congrArg _ ((settle_asked_of_reply hread hrx htakes 1).trans (settle_of_ended hread rfl))
  · have hlaunch : launch (.status payload c) [] s = .done (.ok (.bytes kept)) s := by simp only [launch, startHost, hkept]
    rw [exec_retry (by omega) (hobj hdevice), attempts_of_done (attemptOnce_of_done hlaunch policy 1),
      if_neg (by simp [Res.again])]
    rfl

end Sys2Proof.Machine
end

section
/-! Byte stuffing and the stream reader (O26, O27, O28, O30, O31, O33; 43_mux_stream). -/

namespace Sys2Proof.Machine

/-! The encoder's length (43_mux_stream R163). -/

theorem cobsSegment_length_le (last : Bool) (s : Bytes) :
    (cobsSegment last s).length ≤ s.length + 1 + s.length / 254 := by
  induction s using segment_induction (last := last) with
  | short s hlen => simp [cobsSegment_short last hlen]
  | full s hl hlen => simp [hl, cobsSegment_full hlen]
  | long data s hlen hne ih =>
    rw [cobsSegment_long hlen hne, List.length_cons, List.length_append, List.length_append]
    omega

/-- A zero between two segments pays for the code byte of the second. -/
theorem cobsSegments_length_le {segs : List Bytes} (hne : segs ≠ []) :
    (cobsSegments segs).length ≤ ([0].intercalate segs).length + 1 + ([0].intercalate segs).length / 254 := by
  induction segs with
  | nil => exact absurd rfl hne
  | cons s ss ih =>
    cases ss with
    | nil => simpa [cobsSegments, List.intercalate] using cobsSegment_length_le true s
    | cons t ts =>
      have hfirst := cobsSegment_length_le false s
      have hrest := ih (List.cons_ne_nil t ts)
      have hjoin : ([0].intercalate (s :: t :: ts)).length = s.length + 1 + ([0].intercalate (t :: ts)).length := by
        simp [List.intercalate]; omega
      rw [cobsSegments, List.length_append, hjoin]
      · omega
      · simp

theorem cobsEncode_length_le (d : Bytes) : (cobsEncode d).length ≤ d.length + 1 + d.length / 254 := by
  obtain ⟨hne, -, hjoin⟩ := splitZeros_spec d
  have hlen := cobsSegments_length_le hne
  rwa [hjoin] at hlen

theorem cobsEncode_ne_nil (d : Bytes) : cobsEncode d ≠ [] := by
  obtain ⟨s, ss, h⟩ := List.exists_cons_of_ne_nil (splitZeros_spec d).1
  rw [cobsEncode, h]
  exact cobsSegments_ne_nil s ss

/-! `COBS.ENCODE` and `COBS.DECODE`. -/

theorem exec_cobsDecode_of_some {e d : Bytes} (h : cobsDecode e = some d) (s : State) :
    exec (.cobsDecode e) s = .next { s with reports := s.reports ++ [⟨.owner, .ok (.bytes d)⟩] } := by
  simp only [exec, execCobsDecode, h]
  rfl

theorem exec_cobsDecode_malformed_iff (e : Bytes) (s : State) :
    exec (.cobsDecode e) s = .next { s with reports := s.reports ++ [⟨.owner, .ok .malformed⟩] } ↔
      cobsDecode e = none := by
  cases h : cobsDecode e with
  | none => exact iff_of_true (by simp only [exec, execCobsDecode, h]; rfl) rfl
  | some d => simp [exec_cobsDecode_of_some h]

/-- Settles O26: the frame is made of the blocks of the segments between the zeros. -/
theorem cobsDecodeUndoesEncode : Obligations.CobsDecodeUndoesEncode := fun d s =>
  ⟨cobsEncode d, rfl, zero_notMem_cobsEncode d, List.length_pos_of_ne_nil (cobsEncode_ne_nil d), cobsEncode_length_le d,
    exec_cobsDecode_of_some (cobsDecode_cobsEncode d) s⟩

/-! The decoder on any bytes (43_mux_stream R162). -/

/-- A block that decodes leaves the bytes after it, and puts out at most as many as it took. -/
theorem cobsLoop_cons_of_some {fuel : Nat} {out rest d : Bytes} {c : Byte}
    (h : cobsLoop (fuel + 1) out (c :: rest) = some d) :
    ∃ out' rest', cobsLoop fuel out' rest' = some d ∧ out'.length + rest'.length ≤ out.length + rest.length + 1 ∧
      (rest' = [] → out'.length ≤ out.length + rest.length) := by
  simp only [cobsLoop] at h
  split_ifs at h with hzero hover hdata hsep <;> refine ⟨_, _, h, ?_⟩ <;>
    simp only [List.length_append, List.length_take, List.length_drop, List.length_singleton]
  · exact ⟨by omega, fun hnil => absurd hnil hsep.2⟩
  · omega

/-- Every block but the last puts out at most its own number of bytes, the last one fewer. -/
theorem cobsLoop_length_le {fuel : Nat} {out rest d : Bytes} (h : cobsLoop fuel out rest = some d) :
    d.length ≤ out.length + (rest.length - 1) := by
  induction fuel generalizing out rest with
  | zero =>
    cases rest with
    | nil => simp_all [cobsLoop]
    | cons c rest => cases h
  | succ fuel ih =>
    cases rest with
    | nil => simp_all [cobsLoop]
    | cons c rest =>
      obtain ⟨out', rest', hloop, hle, hlast⟩ := cobsLoop_cons_of_some h
      have hd := ih hloop
      rw [List.length_cons]
      obtain rfl | hmore := eq_or_ne rest' []
      · have := hlast rfl
        rw [List.length_nil] at hd
        omega
      · have := List.length_pos_of_ne_nil hmore
        omega

/-- Without a zero byte, only a code byte that points past the end stops the decoder (43_mux_stream R164 d). -/
theorem cobsLoop_eq_none_iff {fuel : Nat} {out rest : Bytes} (hfuel : rest.length ≤ fuel) (h : (0 : Byte) ∉ rest) :
    cobsLoop fuel out rest = none ↔ overruns fuel rest = true := by
  induction fuel generalizing out rest with
  | zero =>
    obtain rfl := List.eq_nil_of_length_eq_zero (Nat.le_zero.mp hfuel)
    simp [cobsLoop, overruns]
  | succ fuel ih =>
    cases rest with
    | nil => simp [cobsLoop, overruns]
    | cons c rest =>
      rw [List.mem_cons, not_or] at h
      obtain ⟨hc, hrest⟩ := h
      have hdata : (rest.take (c.toNat - 1)).contains 0 = false := by simpa using fun hm => hrest (List.mem_of_mem_take hm)
      have hlater : ∀ out', cobsLoop fuel out' (rest.drop (c.toNat - 1)) = none ↔
          overruns fuel (rest.drop (c.toNat - 1)) = true := fun out' =>
        ih (by rw [List.length_cons] at hfuel; rw [List.length_drop]; omega) fun hm => hrest (List.mem_of_mem_drop hm)
      simp only [cobsLoop, if_neg (Ne.symm hc), hdata, overruns, Bool.or_eq_true, decide_eq_true_eq]
      split <;> rename_i hover
      · simp [hover]
      · simp [hover, hlater]

/-- Settles O27: by the recursion of the decoder's loop, with the bytes already put out. -/
theorem cobsDecodeIsTotal : Obligations.CobsDecodeIsTotal := by
  refine fun e s => ⟨?_, fun hzero => ?_⟩
  · cases h : cobsDecode e with
    | none => exact .inl ((exec_cobsDecode_malformed_iff e s).mpr h)
    | some d => exact .inr ⟨d, by simpa using cobsLoop_length_le h, exec_cobsDecode_of_some h s⟩
  · rw [exec_cobsDecode_malformed_iff, cobsDecode, cobsLoop_eq_none_iff le_rfl hzero]

/-! The subscription set (43_mux_stream R165, R166). -/

theorem insertTopic_of_mem {t : Topic} {subs : List Topic} (hrising : rising subs = true) (h : t ∈ subs) :
    insertTopic t subs = subs := by
  rw [rising_iff] at hrising
  induction subs with
  | nil => cases h
  | cons u us ih =>
    obtain ⟨hfirst, hus⟩ := List.pairwise_cons.mp hrising
    by_cases htu : t = u
    · rw [insertTopic, if_pos htu]
    · have hmem := List.mem_of_ne_of_mem htu h
      rw [insertTopic, if_neg htu, if_neg (hfirst t hmem).not_gt, ih hus hmem]

theorem removeTopic_of_notMem {t : Topic} {subs : List Topic} (h : t ∉ subs) : removeTopic t subs = subs :=
  List.filter_eq_self.mpr fun _ hu => decide_eq_true fun hut => h (hut ▸ hu)

/-- Settles O28: what the two updates of the set hold, and where they change nothing. -/
theorem streamControlsWriteTheirRegister : Obligations.StreamControlsWriteTheirRegister := by
  intro a b c d s
  have hsub : exec (.muxSub [a, b, c, d]) s =
      .next ((s.setSubs (insertTopic ⟨a, b, c, d⟩ s.mux.subs)).ret .reader .unit) := rfl
  have hunsub : exec (.muxUnsub [a, b, c, d]) s =
      .next ((s.setSubs (removeTopic ⟨a, b, c, d⟩ s.mux.subs)).ret .reader .unit) := rfl
  refine ⟨⟨_, fun u => ?_, hsub⟩, ⟨_, fun u => ?_, hunsub⟩, fun hrising hmem => ?_, fun hmem => ?_, fun v => rfl⟩
  · rw [mem_insertTopic, or_comm]
  · rw [mem_removeTopic, and_comm]
  · rw [hsub, insertTopic_of_mem hrising hmem]
    rfl
  · rw [hunsub, removeTopic_of_notMem hmem]
    rfl

/-! The topic filter (43_mux_stream R170 to R172). -/

theorem acceptRaw_cobsEncode (subs : List Topic) (promisc : Bool) (t : Topic) (payload : Bytes) :
    acceptRaw subs promisc (cobsEncode (t.bytes ++ payload)) =
      if promisc || subs.contains t then some (t, payload) else none := by
  simp only [acceptRaw, frameOfRaw_cobsEncode]

/-- A raw frame that is malformed or too short for a topic passes no filter. -/
theorem acceptRaw_of_bad {raw : Bytes} (h : cobsDecode raw = none ∨ ∃ d, cobsDecode raw = some d ∧ d.length < 4)
    (subs : List Topic) (promisc : Bool) : acceptRaw subs promisc raw = none := by
  have hframe : frameOfRaw raw = none := by
    obtain hnone | ⟨d, hd, hlen⟩ := h
    · rw [frameOfRaw, hnone]
    · rw [frameOfRaw, hd]
      match d, hlen with
      | [], _ | [_], _ | [_, _], _ | [_, _, _], _ => rfl
  rw [acceptRaw, hframe]

/-! The stream buffer (43_mux_stream R169). -/

/-- The scan passes over a raw frame that the reader does not accept. -/
theorem muxScan_refused {subs : List Topic} {promisc : Bool} {passed raw : Bytes} (hraw : Config.muxDelim ∉ raw)
    (h : acceptRaw subs promisc (passed ++ raw) = none) (rest : Bytes) :
    muxScan subs promisc passed (raw ++ Config.muxDelim :: rest) = muxScan subs promisc [] rest := by
  induction raw generalizing passed with
  | nil =>
    rw [List.append_nil] at h
    simp [muxScan, h]
  | cons b bs ih =>
    rw [List.mem_cons, not_or] at hraw
    obtain ⟨hb, hbs⟩ := hraw
    rw [List.cons_append, muxScan, if_neg (Ne.symm hb)]
    exact ih hbs (by simpa using h)

/-! A `MUX.READ` that waits (43_mux_stream R168). -/

/-- The state with these bytes in the stream buffer. -/
def State.withBuf (buf : Bytes) (s : State) : State := { s with mux := { s.mux with buf := buf } }

theorem State.withBuf_self {s : State} {buf : Bytes} (h : s.mux.buf = buf) : s.withBuf buf = s := by subst h; rfl

/-- The state in which a `MUX.READ` waits. -/
def State.awaitFrame (s : State) : State := { s with reading := true }

theorem State.awaitFrame_self {s : State} (h : s.reading = true) : s.awaitFrame = s := by rw [State.awaitFrame, ← h]

/-- With no frame to deliver and no cancellation, the `MUX.READ` waits. -/
theorem readerPoll_of_none {s : State} {buf : Bytes} (hcancel : s.mux.cancel = false)
    (h : muxScan s.mux.subs s.mux.promisc [] s.mux.buf = (none, buf)) : s.readerPoll = (s.withBuf buf).awaitFrame := by
  rw [State.readerPoll, h]
  exact if_neg (by simp [hcancel])

/-- With no delimiter in the buffer, a `MUX.READ` waits and takes what the channel holds. -/
theorem exec_muxRead_waits {s : State} (hread : s.reading = false) (hcancel : s.mux.cancel = false)
    (hbuf : Config.muxDelim ∉ s.mux.buf) : exec .muxRead s = .next s.awaitFrame.settle := by
  have hexec : exec .muxRead s = .next s.readerPoll.settle := if_neg (by simp [hread])
  rw [hexec, readerPoll_of_none hcancel (muxScan_no_delim _ _ _ _ hbuf), List.nil_append, State.withBuf_self rfl]

/-- Bytes without a delimiter in the channel join the buffer of the `MUX.READ` that alone waits. -/
theorem settle_read_data {s : State} {data : Bytes} {es : List Event} (hread : s.reading = true) (htask : s.task = none)
    (hcancel : s.mux.cancel = false) (hbuf : Config.muxDelim ∉ s.mux.buf) (hdata : Config.muxDelim ∉ data)
    (hrx : s.chan.rx = byteEvents data ++ es) :
    s.settle = ((s.withBuf (s.mux.buf ++ data)).withRx es).settle := by
  induction data generalizing s with
  | nil => rw [List.append_nil, State.withBuf_self rfl, State.withRx_self (rx := es) hrx]
  | cons b bs ih =>
    rw [List.mem_cons, not_or] at hdata
    obtain ⟨hb, hbs⟩ := hdata
    have hevent : (s.withRx (byteEvents bs ++ es)).readerEvent (.byte b) =
        (s.withBuf (s.mux.buf ++ [b])).withRx (byteEvents bs ++ es) :=
      readerEvent_of_data (s := s.withRx _) hread hcancel hbuf (Ne.symm hb)
    rw [settle_reader_event (es := byteEvents bs ++ es) hread htask hrx, hevent,
      ih (s := (s.withBuf (s.mux.buf ++ [b])).withRx _) hread htask hcancel (by simp [State.withBuf, hbuf, hb]) hbs rfl]
    simp [State.withBuf, State.withRx]

/-- A raw frame that the reader does not accept, and its delimiter, leave the `MUX.READ` waiting for what follows them. -/
theorem settle_read_refused {s : State} {raw : Bytes} {es : List Event} (hread : s.reading = true) (htask : s.task = none)
    (hcancel : s.mux.cancel = false) (hbuf : s.mux.buf = []) (hraw : Config.muxDelim ∉ raw)
    (h : acceptRaw s.mux.subs s.mux.promisc raw = none) (hrx : s.chan.rx = byteEvents (raw ++ [Config.muxDelim]) ++ es) :
    s.settle = (s.withRx es).settle := by
  have hscan : muxScan s.mux.subs s.mux.promisc [] (raw ++ [Config.muxDelim]) = (none, []) := muxScan_refused hraw h []
  have hdelim : State.readerEvent (.byte Config.muxDelim) ((s.withBuf raw).withRx es) = s.withRx es :=
    calc State.readerEvent (.byte Config.muxDelim) ((s.withBuf raw).withRx es)
      _ = State.readerPoll ((s.withBuf (raw ++ [Config.muxDelim])).withRx es) := rfl
      _ = ((s.withBuf []).withRx es).awaitFrame := readerPoll_of_none hcancel hscan
      _ = s.withRx es := by rw [State.withBuf_self hbuf, State.awaitFrame_self (s := s.withRx es) hread]
  have hdata := settle_read_data (data := raw) (es := .chan (.byte Config.muxDelim) :: es) hread htask hcancel
    (by simp [hbuf]) hraw (by simpa [byteEvents] using hrx)
  rw [hbuf, List.nil_append] at hdata
  rw [hdata, settle_reader_event (s := (s.withBuf raw).withRx _) (es := es) hread htask rfl]
  exact congrArg _ hdelim

/-- Timeouts in the channel change nothing for the `MUX.READ` that alone waits. -/
theorem settle_read_timeouts {s : State} {n : Nat} {es : List Event} (hread : s.reading = true) (htask : s.task = none)
    (hrx : s.chan.rx = List.replicate n (.chan .timeout) ++ es) : s.settle = (s.withRx es).settle := by
  induction n generalizing s with
  | zero => rw [State.withRx_self (rx := es) hrx]
  | succ n ih =>
    rw [List.replicate_succ, List.cons_append] at hrx
    rw [settle_reader_event hread htask hrx]
    exact ih (s := s.withRx _) hread htask rfl

/-- Settles O33: the timeouts are passed over, and the failure ends the `MUX.READ`. -/
theorem muxReadMeetsTimeoutAndFailure : Obligations.MuxReadMeetsTimeoutAndFailure := by
  intro rest n s hread htask hcancel hbuf
  rw [exec_muxRead_waits hread hcancel hbuf]
  refine ⟨fun hrx => congrArg _ ?_, fun hrx => congrArg _ ?_⟩
  · have hskip : s.awaitFrame.settle = (s.awaitFrame.withRx (.chan .fail :: rest)).settle :=
      settle_read_timeouts rfl htask hrx
    rw [hskip, settle_reader_event (s := s.awaitFrame.withRx _) (es := rest) rfl htask rfl,
      settle_of_not_waiting _ (by simp [State.waiting, State.framing, State.readerEvent, State.awaitFrame, htask])]
    simp [State.readerEvent, State.awaitFrame, State.withRx, State.report, hread]
  · have hskip : s.awaitFrame.settle = (s.awaitFrame.withRx []).settle :=
      settle_read_timeouts (n := n) rfl htask (by simpa [State.awaitFrame] using hrx)
    exact hskip.trans (settle_of_empty _ rfl)

/-! `MUX.READ` at the beginning of a frame (43_mux_stream R168 to R172). -/

/-- Nothing waits, the stream is not cancelled, and its buffer is empty. -/
structure State.BetweenFrames (s : State) : Prop where
  reading : s.reading = false
  task : s.task = none
  cancel : s.mux.cancel = false
  buf : s.mux.buf = []

theorem State.BetweenFrames.exec_muxRead {s : State} (h : s.BetweenFrames) :
    exec .muxRead s = .next s.awaitFrame.settle :=
  exec_muxRead_waits h.reading h.cancel (by simp [h.buf])

theorem State.BetweenFrames.withRx {s : State} (h : s.BetweenFrames) (rx : List Event) : (s.withRx rx).BetweenFrames :=
  ⟨h.reading, h.task, h.cancel, h.buf⟩

theorem State.BetweenFrames.report {s : State} (h : s.BetweenFrames) (c : Caller) (r : Res) : (s.report c r).BetweenFrames :=
  ⟨h.reading, h.task, h.cancel, h.buf⟩

/-- The topic filter lets the frame pass (43_mux_stream R170). -/
def Mux.passes (m : Mux) (f : Topic × Bytes) : Bool := m.promisc || m.subs.contains f.1

theorem Mux.passes_iff (m : Mux) (t : Topic) (payload : Bytes) :
    m.passes (t, payload) = true ↔ m.promisc = true ∨ t ∈ m.subs := by
  simp [Mux.passes]

theorem exec_muxRead_of_empty {s : State} (h : s.BetweenFrames) (hrx : s.chan.rx = []) :
    exec .muxRead s = .next s.awaitFrame := by
  rw [h.exec_muxRead, settle_of_empty s.awaitFrame hrx]

/-- A frame that passes the filter is delivered, and what follows its delimiter stays in the channel. -/
theorem exec_muxRead_delivers {s : State} {t : Topic} {payload : Bytes} {es : List Event} (h : s.BetweenFrames)
    (hpass : s.mux.passes (t, payload) = true)
    (hrx : s.chan.rx = byteEvents (muxFrame t payload) ++ es) :
    exec .muxRead s = .next ((s.withRx es).report .reader (.ok (.frame t payload))) := by
  have haccept : acceptRaw s.mux.subs s.mux.promisc (cobsEncode (t.bytes ++ payload)) = some (t, payload) := by
    exact (acceptRaw_cobsEncode _ _ t payload).trans (if_pos hpass)
  have hframe := settle_read_frame (s := s.awaitFrame) rfl h.task h.cancel (by simp [State.awaitFrame, h.buf])
    (zero_notMem_cobsEncode (t.bytes ++ payload)) (by simpa [State.awaitFrame, h.buf] using haccept) hrx
  rw [h.exec_muxRead, hframe]
  simp only [State.awaitFrame, State.withRx, State.report, ← h.buf, ← h.reading]

/-- A raw frame that the reader does not accept is passed over. -/
theorem exec_muxRead_refused {s : State} {raw : Bytes} {es : List Event} (h : s.BetweenFrames) (hraw : (0 : Byte) ∉ raw)
    (hrefused : acceptRaw s.mux.subs s.mux.promisc raw = none) (hrx : s.chan.rx = byteEvents (raw ++ [0]) ++ es) :
    exec .muxRead s = exec .muxRead (s.withRx es) := by
  rw [h.exec_muxRead, (h.withRx es).exec_muxRead]
  exact congrArg _ (settle_read_refused (s := s.awaitFrame) rfl h.task h.cancel h.buf hraw hrefused hrx)

/-- A frame that does not pass the filter is passed over. -/
theorem exec_muxRead_discards {s : State} {t : Topic} {payload : Bytes} {es : List Event} (h : s.BetweenFrames)
    (hpass : ¬ s.mux.passes (t, payload) = true)
    (hrx : s.chan.rx = byteEvents (muxFrame t payload) ++ es) : exec .muxRead s = exec .muxRead (s.withRx es) :=
  exec_muxRead_refused h (zero_notMem_cobsEncode (t.bytes ++ payload)) 
    ((acceptRaw_cobsEncode _ _ t payload).trans (if_neg hpass)) hrx

/-- Settles O30: a frame that passes the filter is delivered, and after any other raw frame the channel is empty. -/
theorem muxReadFiltersByTopic : Obligations.MuxReadFiltersByTopic := by
  intro t payload rest s hread htask hcancel hbuf
  have hs : s.BetweenFrames := ⟨hread, htask, hcancel, hbuf⟩
  have hrx_nil : ∀ {es : List Event}, s.chan.rx = es → s.chan.rx = es ++ [] := fun hrx => by rwa [List.append_nil]
  have hempty : exec .muxRead (s.withRx []) = .next (s.withRx []).awaitFrame := exec_muxRead_of_empty (hs.withRx []) rfl
  refine ⟨fun hfilter hrx => ?_, fun hpromisc hsubs hrx => ?_, fun raw hraw hbad hrx => ?_⟩
  · exact exec_muxRead_delivers hs ((s.mux.passes_iff t payload).mpr hfilter) hrx
  · exact (exec_muxRead_discards hs (by simp [Mux.passes_iff, hpromisc, hsubs]) (hrx_nil hrx)).trans hempty
  · exact (exec_muxRead_refused hs hraw (acceptRaw_of_bad hbad _ _) (hrx_nil hrx)).trans hempty

/-! Successive `MUX.READ`s (43_mux_stream R175). -/

theorem readTimes_succ_of_next {s t : State} (h : exec .muxRead s = .next t) (n : Nat) :
    readTimes (n + 1) s = readTimes n t := by
  rw [readTimes, h]

theorem readTimes_succ_congr {s t : State} (h : exec .muxRead s = exec .muxRead t) (n : Nat) :
    readTimes (n + 1) s = readTimes (n + 1) t := by
  rw [readTimes, readTimes, h]

theorem byteEvents_append (bs cs : Bytes) : byteEvents (bs ++ cs) = byteEvents bs ++ byteEvents cs := List.map_append

/-- The frame that `MUX.READ` delivers, as its report. -/
def frameReport (f : Topic × Bytes) : Report := ⟨.reader, .ok (.frame f.1 f.2)⟩

/-- Reading as often as frames pass the filter reports these frames in their order. -/
theorem readTimes_frames (fs : List (Topic × Bytes)) {s : State} (h : s.BetweenFrames)
    (hrx : s.chan.rx = byteEvents (fs.flatMap fun f => muxFrame f.1 f.2)) :
    ∃ rest, readTimes (fs.filter s.mux.passes).length s = some { s with
      chan := { s.chan with rx := rest }, reports := s.reports ++ (fs.filter s.mux.passes).map frameReport } := by
  induction fs generalizing s with
  | nil => exact ⟨s.chan.rx, by simp [readTimes]⟩
  | cons f fs ih =>
    rw [List.flatMap_cons, byteEvents_append] at hrx
    generalize hes : byteEvents (fs.flatMap fun f => muxFrame f.1 f.2) = es at hrx
    by_cases hpass : s.mux.passes f = true
    · obtain ⟨rest, hrest⟩ := ih ((h.withRx es).report .reader (.ok (.frame f.1 f.2))) hes.symm
      refine ⟨rest, ?_⟩
      rw [List.filter_cons_of_pos hpass, List.length_cons, readTimes_succ_of_next (exec_muxRead_delivers h hpass hrx)]
      simpa [State.withRx, State.report, frameReport] using hrest
    · obtain ⟨rest, hrest⟩ := ih (h.withRx es) hes.symm
      rw [List.filter_cons_of_neg hpass]
      cases hgot : fs.filter s.mux.passes with
      | nil => exact ⟨s.chan.rx, by simp [readTimes]⟩
      | cons g gs =>
        refine ⟨rest, ?_⟩
        rw [List.length_cons, readTimes_succ_congr (exec_muxRead_discards h hpass hrx)]
        simpa [hgot, State.withRx] using hrest

/-- Settles O31: by induction on the frames, each delivered by one `MUX.READ` or passed over by it. -/
theorem muxReadsDeliverInOrder : Obligations.MuxReadsDeliverInOrder := by
  rintro fs s hread htask hcancel hbuf hrx got rfl
  exact readTimes_frames fs ⟨hread, htask, hcancel, hbuf⟩ hrx

end Sys2Proof.Machine
end

section
/-! The operations of a File Transfer Session (O40 to O44; 44_host_protocols R188 to R191, R195). Each is one exchange, whose
reply or error goes up to one frame. -/

namespace Sys2Proof.Machine

/-! One exchange, from its request to its reply (42_extended_packet R129). -/

/-- An exchange: what it asks, and the data of the reply that answers it. -/
structure Exchange where
  sub : Byte
  request : Bytes
  checks : Checks
  data : Bytes

/-- The bytes of the request. -/
def Exchange.wire (x : Exchange) : Bytes := wireOf x.sub x.request

/-- The bytes of the reply. -/
def Exchange.reply (p : Params) (x : Exchange) : Bytes := replyOf p x.sub (acked p x.checks x.data)

/-- Where an operation waits for the reply, the frames `fs` behind its decoder. -/
def Exchange.frames (x : Exchange) (fs : List Frame) : List Frame := .decode x.sub x.checks :: fs

/-- Request and reply fit their packets, and the reply is as long as the switches ask. -/
structure Exchange.Fits (p : Params) (x : Exchange) : Prop where
  request : x.request.length ≤ 32767
  reply : (acked p x.checks x.data).length ≤ if p.innerLen then 32762 else 32764
  asked : x.checks.len = true → x.data.length = x.checks.expectedLen

/-- The next `n` exchanges can be begun, one after another, and acknowledged. -/
structure State.Free (n : Nat) (s : State) : Prop where
  idle : s.sp.st = .idle
  quiet : s.reading = false
  accepts : s.accepts n = true
  ack : (nackOfByte s.params.ackByte).isNone

/-- The state after `n` exchanges that wrote the bytes `w` and left the events `rest`. -/
def State.talked (n : Nat) (w : Bytes) (rest : List Event) (f : Framer) (fs : Option (List Frame)) (g : Option Session)
    (s : State) : State :=
  { s with
    sp := f, task := fs, querying := false, ft := g
    chan := { s.chan with rx := rest, tx := s.chan.tx ++ w, writes := s.chan.writes.drop n } }

/-- The reply in the channel ends the wait for it. -/
theorem settle_asked_answered {s : State} {x : Exchange} {rest : List Event} (hs : s.Free 1) (hx : x.Fits s.params)
    (hrx : s.chan.rx = byteEvents (x.reply s.params) ++ rest) : ∃ g : Framer, g.st = .idle ∧ ∀ fs : List Frame,
      State.settle { s.asked x.wire with task := some (x.frames fs) } =
        (State.unwind fs (.ok (.bytes x.data)) (s.talked 1 x.wire rest g (some (x.frames fs)) s.ft)).settle := by
  obtain ⟨g, hg, -, htakes⟩ := takesReply_of_fit hs.ack x.sub hx.reply hx.asked s.sp.arm_st
  exact ⟨g, hg, fun fs => settle_asked_of_reply hs.quiet hrx htakes s.attempt⟩

/-- An operation that begins with an exchange writes the request and waits. -/
theorem launch_asks {op : HostOp} {s t : State} {x : Exchange} {fs : List Frame} (ht : t.Free 1) (hx : x.Fits t.params)
    (hop : startHost op s = t.request x.sub x.request (x.frames fs)) (after : List Frame) :
    launch op after s = .wait (x.frames (fs ++ after)) (t.asked x.wire) :=
  launch_of_wait (hop.trans (request_of_wire ht.idle (extTx_of_length hx.request x.sub) ht.accepts _)) after

/-- An operation that is invoked gets its reply. -/
theorem invoke_answered {op : HostOp} {s t : State} {x : Exchange} {fs : List Frame} {rest : List Event} (ht : t.Free 1)
    (hx : x.Fits t.params) (hrx : t.chan.rx = byteEvents (x.reply t.params) ++ rest)
    (hop : startHost op s = t.request x.sub x.request (x.frames fs)) : ∃ g : Framer, g.st = .idle ∧
      s.invoke op =
        (State.unwind fs (.ok (.bytes x.data)) (t.talked 1 x.wire rest g (some (x.frames fs)) t.ft)).settle := by
  obtain ⟨g, hg, h⟩ := settle_asked_answered ht hx hrx
  refine ⟨g, hg, ?_⟩
  rw [State.invoke, launch_asks ht hx hop, List.append_nil]
  exact h fs

/-! The operations of a session. -/

/-- The exchange of `FT.INIT` (44_host_protocols R188). -/
def initExchange (l : Layouts) (a : InitArgs) (q : Bytes) : Exchange := ⟨0x11, initPayload l a, initChecks l, q⟩

/-- The exchange of `FT.WRITE` (44_host_protocols R189). -/
def writeExchange (p : Params) (address : Nat) (data : Bytes) : Exchange :=
  ⟨0x13, writePayload p address data, ackOnly, []⟩

/-- The exchange of `FT.READ` (44_host_protocols R190). -/
def readExchange (l : Layouts) (address n : Nat) (c : Checks) (d : Bytes) : Exchange :=
  ⟨0x14, readPayload l address n, c, d⟩

/-- The exchange of `FT.COMPLETE` (44_host_protocols R191). -/
def completeExchange (l : Layouts) (run : RunOption) : Exchange := ⟨0x12, completePayload l run, ackOnly, []⟩

/-- An acknowledged reply of the length that the layout asks for fits. -/
theorem initExchange_fits {p : Params} {a : InitArgs} {q : Bytes} (hrequest : (initPayload p.layouts a).length ≤ 32767)
    (hlen : q.length = p.layouts.initReplyLen) (hmax : q.length < 32762) : (initExchange p.layouts a q).Fits p where
  request := hrequest
  reply := by
    have hreply : (acked p (initExchange p.layouts a q).checks q).length = q.length + 1 := rfl
    have := hreply
    split <;> simp only [initExchange] at this ⊢ <;> omega
  asked _ := hlen

/-- A bare acknowledgment fits every reply. -/
theorem ackOnly_fits {x : Exchange} (hchecks : x.checks = ackOnly) (hdata : x.data = [])
    (hrequest : x.request.length ≤ 32767) (p : Params) : x.Fits p where
  request := hrequest
  reply := by
    rw [hchecks, hdata]
    split <;> exact Nat.le_add_left _ _
  asked h := by
    rw [hchecks] at h
    cases h

/-- The name goes out with at most 24 bytes (44_host_protocols R188). -/
theorem initPayload_truncated (l : Layouts) (a : InitArgs) :
    initPayload l { a with name := a.name.take 24 } = initPayload l a := by
  have h : truncateName (a.name.take 24) = truncateName a.name := List.take_take
  simp only [initPayload, h]

/-- A primary device has the capability for every operation of a session (44_host_protocols R202). -/
theorem objection_session {op : HostOp} {s : State} (h : inSession op = true) (hchunk : chunked op = true)
    (hdevice : s.device = .primary) : s.objection op = none := by
  have hcap : opCapability op = some .fileIo := by
    cases op with
    | xchg | command | status | boot => cases h
    | _ => rfl
  have hserves : s.device.serves (opCapability op) = true := by rw [hdevice, hcap]; rfl
  simp only [State.objection, hchunk, hserves, Bool.not_true, Bool.false_eq_true, if_false]
  split
  · cases h
  · rfl

/-- On a primary device the row of a session's operation is the operation. -/
theorem exec_session {op : HostOp} {i : Instr} {s : State} (hrow : opInstr op = some i) (h : inSession op = true)
    (hchunk : chunked op = true) (hdevice : s.device = .primary) : exec i s = .next (s.invoke op) :=
  (exec_opInstr hrow s).trans (perform_of_unopposed (objection_session h hchunk hdevice))

/-- The row of an operation of a session, up to the reply going up the frames behind its decoder. -/
theorem exec_answered {op : HostOp} {i : Instr} {s : State} {x : Exchange} {fs : List Frame} {rest : List Event}
    (hrow : opInstr op = some i) (h : inSession op = true) (hchunk : chunked op = true) (hdevice : s.device = .primary)
    (hs : s.Free 1) (hx : x.Fits s.params) (hrx : s.chan.rx = byteEvents (x.reply s.params) ++ rest)
    (hop : startHost op s = s.request x.sub x.request (x.frames fs)) : ∃ g : Framer, g.st = .idle ∧ exec i s = .next
      (State.unwind fs (.ok (.bytes x.data)) (s.talked 1 x.wire rest g (some (x.frames fs)) s.ft)).settle := by
  obtain ⟨g, hg, hrun⟩ := invoke_answered hs hx hrx hop
  exact ⟨g, hg, by rw [exec_session hrow h hchunk hdevice, hrun]⟩

/-- Without a session, and with no exchange in flight, the primary device is in `Idle` (44_host_protocols R198). -/
theorem primary_idle {s : State} (hft : s.ft = none) (hquery : s.querying = false) : s.primary = .idle := by
  simp [State.primary, hft, hquery]

/-- A reply to `FT.INIT` that allots too little ends it, and the session (44_host_protocols R194). -/
theorem resume_init_short {length address : Nat} {crc : BitVec 32} {q : Bytes} {s : State}
    (h : sliceNat q s.params.layouts.fileSize < length) :
    (Frame.init length address crc).resume (.ok (.bytes q)) s = .done (.error .unexpectedLength) s.dropSession := if_pos h

/-- The session that a reply to `FT.INIT` opens: the reply's fields and the operands (44_host_protocols R187, R188). -/
def openedSession (l : Layouts) (q : Bytes) (length address : Nat) (crc : BitVec 32) : Session :=
  ⟨sliceNat q l.maxPacketSize, sliceNat q l.fileSize, sliceNat q l.deviceCrc, address, length, crc⟩

/-- What `FT.INIT` returns of its reply (44_host_protocols R188). -/
def openedValue (l : Layouts) (q : Bytes) : Value :=
  .session (sliceNat q l.maxPacketSize) (sliceNat q l.fileSize) (sliceNat q l.deviceCrc)

/-- A reply that allots enough opens the session (44_host_protocols R187, R188). -/
theorem resume_init {length address : Nat} {crc : BitVec 32} {q : Bytes} {s : State}
    (h : ¬ sliceNat q s.params.layouts.fileSize < length) :
    (Frame.init length address crc).resume (.ok (.bytes q)) s = .done (.ok (openedValue s.params.layouts q))
      { s with querying := false, ft := some (openedSession s.params.layouts q length address crc) } := if_neg h

/-- One frame makes of an outcome what goes up to the frames behind it. -/
theorem unwind_singleton (f : Frame) (r : Res) (s : State) : State.unwind [f] r s = (f.resume r s).under [] := by
  simp only [State.unwind]
  cases f.resume r s <;> rfl

/-- The last frame of an operation ends it, and its outcome is the owner's. -/
theorem settle_unwind_done {f : Frame} {r r' : Res} {s t : State} (h : f.resume r s = .done r' t)
    (hread : t.reading = false) : (State.unwind [f] r s).settle = State.report .owner r' { t with task := none } := by
  rw [unwind_singleton, h]
  exact settle_of_ended hread rfl

/-- Settles O40: the reply goes up to the frame of `FT.INIT`, which looks at the length that the device allots. -/
theorem ftInitOpensTheSession : Obligations.FtInitOpensTheSession := by
  rintro a q request rest s l rfl rfl hdevice hidle hread haccept hack hfit hlen hmax hrx
  rw [initPayload_truncated] at hfit ⊢
  obtain ⟨g, hg, h⟩ := exec_answered (op := .init a) (x := initExchange s.params.layouts a q)
    (fs := [.init a.length a.address a.crc]) rfl rfl rfl hdevice ⟨hidle, hread, haccept, hack⟩
    (initExchange_fits hfit hlen hmax) hrx rfl
  by_cases hshort : sliceNat q s.params.layouts.fileSize < a.length
  · simp only [if_pos hshort]
    exact ⟨g, hg, _, h.trans (congrArg _ (settle_unwind_done (resume_init_short hshort) hread)), rfl, primary_idle rfl rfl⟩
  · simp only [if_neg hshort]
    exact ⟨g, hg, _, h.trans (congrArg _ (settle_unwind_done (resume_init hshort) hread)), rfl, rfl⟩

/-- Settles O41. -/
theorem ftWritePadsAndAdvances : Obligations.FtWritePadsAndAdvances := by
  rintro address data request rest s rfl hdevice hidle hread haccept hack hfit hrx
  obtain ⟨g, hg, h⟩ := exec_answered (op := .write address data) (x := writeExchange s.params address data)
    (fs := [.write address data.length]) rfl rfl rfl hdevice ⟨hidle, hread, haccept, hack⟩
    (ackOnly_fits rfl rfl hfit _) hrx rfl
  exact ⟨g, hg, h.trans (congrArg _ (settle_of_ended hread rfl))⟩

/-- Settles O42. -/
theorem ftReadRoundsAndTrims : Obligations.FtReadRoundsAndTrims := by
  rintro address n c d request rest s rfl hdevice hidle hread haccept hack hfit hreply hlen hrx
  obtain ⟨g, hg, h⟩ := exec_answered (op := .read address n c) (x := readExchange s.params.layouts address n c d)
    (fs := [.read address n]) rfl rfl rfl hdevice ⟨hidle, hread, haccept, hack⟩ ⟨hfit, hreply, hlen⟩ hrx rfl
  exact ⟨g, hg, h.trans (congrArg _ (settle_of_ended hread rfl))⟩

/-- Settles O43. -/
theorem ftCompleteDiscardsTheSession : Obligations.FtCompleteDiscardsTheSession := by
  rintro run request rest s rfl hdevice hidle hread haccept hack hfit hrx
  obtain ⟨g, hg, h⟩ := exec_answered (op := .complete run) (x := completeExchange s.params.layouts run)
    (fs := [.complete]) rfl rfl rfl hdevice ⟨hidle, hread, haccept, hack⟩ (ackOnly_fits rfl rfl hfit _) hrx rfl
  exact ⟨g, hg, _, h.trans (congrArg _ (settle_of_ended hread rfl)), rfl, primary_idle rfl rfl⟩

/-! Errors of an operation of a session (44_host_protocols R195). -/

/-- An operation of a session that is one exchange: its last frame passes an error on, and drops the session. -/
structure SessionStep (op : HostOp) (sub : Byte) (request : Bytes) (c : Checks) (f : Frame) (s : State) : Prop where
  session : inSession op = true
  start : startHost op s = s.request sub request [.decode sub c, f]
  drops : ∀ x t, f.resume (.error x) t = .done (.error x) t.dropSession

/-- An error at once drops the session. -/
theorem SessionStep.invoke_of_error {op : HostOp} {sub : Byte} {request : Bytes} {c : Checks} {f : Frame} {s t : State}
    {e : Err} (h : SessionStep op sub request c f s)
    (hrequest : s.request sub request [.decode sub c, f] = .done (.error e) t) :
    s.invoke op = t.dropSession.report .owner (.error e) := by
  have hlaunch : launch op [] s = .done (.error e) t.dropSession := by
    simp only [launch, h.start, hrequest, h.session, if_true]
  rw [State.invoke, hlaunch, State.proceed]

theorem request_of_busy {s : State} (h : s.sp.st ≠ .idle) (sub : Byte) (payload : Bytes) (fs : List Frame) :
    s.request sub payload fs = .done (.error .busy) s := by
  simp only [State.request, State.startXchg, if_pos h]

/-! The events that end a receive (41_simple_packet R110 to R112). -/

/-- The framer `f` takes the events one by one, and the last of them brings it to `g` with the outcome `o`. -/
inductive Framer.Ends : Framer → List Event → Framer → Except Err Packet → Prop where
  | last {f g : Framer} {e : ChanEvent} {o : Except Err Packet} (h : f.step e = (g, some o)) : Framer.Ends f [.chan e] g o
  | more {f h g : Framer} {e : ChanEvent} {es : List Event} {o : Except Err Packet} (hstep : f.step e = (h, none))
      (hend : Framer.Ends h es g o) : Framer.Ends f (.chan e :: es) g o

/-- A framer that waits goes on waiting when it yields nothing. -/
theorem waits_of_none {f g : Framer} {e : ChanEvent} (hst : f.st ≠ .idle) (h : f.step e = (g, none)) : g.st ≠ .idle := by
  simpa [h] using (framer_step_outcome f e hst).not

/-- A framer that has an outcome is back in `IDLE`. -/
theorem Framer.Ends.idle {f g : Framer} {es : List Event} {o : Except Err Packet} (h : f.Ends es g o)
    (hst : f.st ≠ .idle) : g.st = .idle := by
  induction h with
  | @last f g e o h => simpa [h] using framer_step_outcome f e hst
  | more hstep _ ih => exact ih (waits_of_none hst hstep)

theorem ends_of_feed {f g : Framer} {w : Bytes} {o : Except Err Packet} (h : f.feed w = (g, some o, [])) :
    f.Ends (byteEvents w) g o := by
  induction w generalizing f with
  | nil => cases h
  | cons b bs ih =>
    rcases hstep : f.step (.byte b) with ⟨f', _ | o'⟩
    · rw [feed_of_none hstep] at h
      exact .more hstep (ih h)
    · rw [feed_of_outcome hstep] at h
      cases h
      exact .last hstep

/-- The events that end a receive are consumed by the operation that waits for it, and no others. -/
theorem settle_of_ends {s : State} {fs : List Frame} {es rest : List Event} {g : Framer} {o : Except Err Packet}
    (h : s.sp.Ends es g o) (hst : s.sp.st ≠ .idle) (htask : s.task = some fs) (hread : s.reading = false)
    (hrx : s.chan.rx = es ++ rest) :
    s.settle = (State.unwind fs (resOf .packet o) (State.withRx rest { s with sp := g })).settle := by
  generalize hf : s.sp = f at h
  induction h generalizing s with
  | last h => exact settle_framer_outcome hst htask hread hrx (hf ▸ h)
  | @more f h g e es o hstep _ ih =>
    subst hf
    rw [settle_framer_event (es := es ++ rest) hst (by simp [htask]) hread hrx,
      framerEvent_of_none (s := s.withRx (es ++ rest)) hstep]
    exact ih (s := State.withRx (es ++ rest) { s with sp := h }) (waits_of_none hst hstep) htask hread rfl rfl

/-- In the middle of a packet the framer waits for more of it, having found the sync. -/
def Framer.inside (f : Framer) : Prop := f.st ≠ .idle ∧ f.st.hunting = false

/-- A byte inside a packet is the packet's. -/
theorem step_inside {f g : Framer} {b : Byte} (hf : f.inside) (h : f.step (.byte b) = (g, none)) : g.inside := by
  obtain ⟨hidle, hhunt⟩ := hf
  refine ⟨waits_of_none hidle h, ?_⟩
  have hg : g = (f.onByte b).1 := by
    rw [Framer.step, if_neg hidle] at h
    exact (congrArg Prod.fst h).symm
  subst hg
  unfold Framer.onByte Framer.startPayload
  cases hst : f.st with
  | idle => exact absurd hst hidle
  | hunt0 | hunt1 => rw [hst] at hhunt; cases hhunt
  | cmd => rfl
  | len0 | len1 | payload => dsimp only; split_ifs <;> rfl

/-- Cut short, the bytes of a packet leave the framer waiting for the rest, where any other end may come. -/
theorem ends_of_cut {P : Framer → Prop} (hP : ∀ {f g : Framer} {b : Byte}, P f → f.step (.byte b) = (g, none) → P g)
    {f g : Framer} {w : Bytes} {o : Except Err Packet} (hf : P f) (hw : f.feed w = (g, some o, [])) {k : Nat}
    (hk : k < w.length) : ∃ h, P h ∧ ∀ es g' o', h.Ends es g' o' → f.Ends (byteEvents (w.take k) ++ es) g' o' := by
  induction k generalizing f w with
  | zero => exact ⟨f, hf, fun _ _ _ h => by simpa [byteEvents] using h⟩
  | succ k ih =>
    cases w with
    | nil => cases hw
    | cons b bs =>
      rw [List.length_cons, Nat.add_lt_add_iff_right] at hk
      rcases hstep : f.step (.byte b) with ⟨f', _ | o'⟩
      · rw [feed_of_none hstep] at hw
        obtain ⟨h, hh, hrest⟩ := ih (hP hf hstep) hw hk
        exact ⟨h, hh, fun es g' o' hend => .more hstep (hrest es g' o' hend)⟩
      · rw [feed_of_outcome hstep] at hw
        cases hw
        simp at hk

/-- A packet cut short keeps an armed framer waiting; once the sync is in, it is inside the packet. -/
theorem ends_of_cut_packet {f : Framer} {pk : Packet} {k : Nat} (hst : f.st = .hunt0) (hpk : IsSprx pk)
    (hk : k < pk.raw.length) : ∃ h : Framer, h.st ≠ .idle ∧ (2 ≤ k → h.inside) ∧
      ∀ es g o, h.Ends es g o → f.Ends (byteEvents (pk.raw.take k) ++ es) g o := by
  obtain ⟨g, -, -, hfeed⟩ := feed_sprx hst hpk []
  rw [List.append_nil] at hfeed
  have hne : f.st ≠ .idle := by simp [hst]
  obtain hk2 | hk2 := Nat.lt_or_ge k 2
  · obtain ⟨h, hwaits, hends⟩ := ends_of_cut (P := fun f => f.st ≠ .idle) waits_of_none hne hfeed hk
    exact ⟨h, hwaits, fun h2 => absurd h2 (not_le.mpr hk2), hends⟩
  · obtain ⟨w, hw⟩ : ∃ w, pk.raw = 0xAA :: 0x55 :: w := by
      obtain ⟨-, -, h⟩ | ⟨-, -, -, h⟩ := hpk <;> exact ⟨_, h⟩
    obtain ⟨j, rfl⟩ : ∃ j, k = j + 2 := ⟨k - 2, by omega⟩
    have hfirst := step_hunt0 hst 0xAA
    rw [if_pos rfl] at hfirst
    have hsecond := step_hunt1 (f := { f with st := .hunt1, raw := [0xAA] }) rfl 0x55
    rw [if_pos rfl] at hsecond
    rw [hw, feed_of_none hfirst, feed_of_none hsecond] at hfeed
    rw [hw, List.length_cons, List.length_cons, Nat.add_lt_add_iff_right] at hk
    obtain ⟨h, hinside, hends⟩ := ends_of_cut (P := Framer.inside) step_inside ⟨by simp, rfl⟩ hfeed hk
    rw [hw]
    exact ⟨h, hinside.1, fun _ => hinside, fun es g o hend => .more hfirst (.more hsecond (hends es g o hend))⟩

/-- A reply that is a rejection decodes to it, when the acknowledgment is checked (42_extended_packet R124, R126). -/
theorem extDecode_nack {p : Params} {pk : Packet} {sub t0 t1 : Byte} {c : Checks} {code : NackCode} {body : Bytes}
    (hcmd : pk.cmd = Config.extCmd) (hcrc : crc16 pk.raw 0 = 0) (hpayload : pk.payload = body ++ [t0, t1])
    (hbody : replyBody p sub [code.byte] = .ok body) (hack : c.ack = true) :
    extDecode p pk sub c = .error (.deviceRejected code) := by
  obtain ⟨hmin, hsub, hinner⟩ := extInner_replyBody hbody t0 t1
  rw [← hpayload] at hmin hsub hinner
  have hreject : extAck p c [code.byte] = .error (.deviceRejected code) := by
    simp only [extAck, hack, if_true, ackDecode, nackOfByte_byte]
  have hsame : ¬ pk.payload.headD 0 ≠ sub := not_not.mpr hsub
  rw [extDecode_of_zero hcmd (by rw [← crc16_eq_crcBitwise, hcrc]), if_neg (not_lt.mpr hmin), if_neg hsame, hinner]
  exact congrArg (· >>= extExact c) hreject

/-- What the framer yields, as `EXT.DECODE` makes an error of it. -/
def Fails (p : Params) (sub : Byte) (c : Checks) (x : Err) (o : Except Err Packet) : Prop :=
  o = .error x ∨ ∃ pk, o = .ok pk ∧ extDecode p pk sub c = .error x

/-- The error goes up to the frame behind the decoder. -/
theorem unwind_decode_error {p : Params} {sub : Byte} {c : Checks} {x : Err} {o : Except Err Packet} {s : State}
    (hp : p = s.params) (h : Fails p sub c x o) (fs : List Frame) :
    State.unwind (.decode sub c :: fs) (resOf .packet o) s = State.unwind fs (.error x) { s with querying := false } := by
  obtain rfl | ⟨pk, rfl, hdec⟩ := h
  · rfl
  · subst hp
    simp only [State.unwind, resOf, Frame.resume, hdec]

/-- An operation of a session whose receive ends with an error: the request went out, the error is the owner's, and the session
is no more. -/
theorem SessionStep.invoke_fails {op : HostOp} {sub : Byte} {request : Bytes} {c : Checks} {f : Frame} {s : State} {x : Err}
    {es rest : List Event} {g : Framer} {o : Except Err Packet} (h : SessionStep op sub request c f s)
    (hidle : s.sp.st = .idle) (hread : s.reading = false) (haccept : s.accepts 1 = true) (hfit : request.length ≤ 32767)
    (hends : s.sp.arm.Ends es g o) (hfails : Fails s.params sub c x o) (hrx : s.chan.rx = es ++ rest) :
    s.invoke op = (s.talked 1 (wireOf sub request) rest g none none).report .owner (.error x) := by
  rw [invoke_waits (h.start.trans (request_of_wire hidle (extTx_of_length hfit sub) haccept _))]
  have hend := settle_of_ends (s := { s.asked (wireOf sub request) with task := some [.decode sub c, f] }) hends
    (by simp [State.asked]) rfl hread hrx
  refine hend.trans ((congrArg State.settle (unwind_decode_error ?_ hfails [f])).trans ?_)
  · rfl
  · exact settle_unwind_done (h.drops x _) hread

/-- The ways in which a receive can end with an error (41_simple_packet R111, R112, 42_extended_packet R124). -/
theorem ends_with_error {p : Params} {pk : Packet} {sub : Byte} {c : Checks} {k : Nat} {code : NackCode} {x : Err}
    {es : List Event} {f : Framer} (hst : f.st = .hunt0)
    (h : (es = [.chan .timeout] ∧ x = .frameSyncTimeout) ∨ (es = [.chan .fail] ∧ x = .transport .channelFailure) ∨
      (IsSprx pk ∧ 2 ≤ k ∧ k < pk.raw.length ∧ es = byteEvents (pk.raw.take k) ++ [.chan .timeout] ∧
        x = .transport .shortRead) ∨
      (IsSprx pk ∧ k < pk.raw.length ∧ es = byteEvents (pk.raw.take k) ++ [.chan .fail] ∧
        x = .transport .channelFailure) ∨
      (IsSprx pk ∧ extDecode p pk sub c = .error x ∧ es = byteEvents pk.raw) ∨
      (c.ack = true ∧ es = byteEvents (replyOf p sub [code.byte]) ∧ x = .deviceRejected code)) :
    ∃ (g : Framer) (o : Except Err Packet), f.Ends es g o ∧ Fails p sub c x o := by
  have hne : f.st ≠ .idle := by simp [hst]
  obtain ⟨rfl, rfl⟩ | ⟨rfl, rfl⟩ | ⟨hpk, hk2, hk, rfl, rfl⟩ | ⟨hpk, hk, rfl, rfl⟩ | ⟨hpk, hdec, rfl⟩ | ⟨hack, rfl, rfl⟩ := h
  · exact ⟨_, _, .last (step_timeout hne), .inl (by rw [hst]; rfl)⟩
  · exact ⟨_, _, .last (step_fail hne), .inl rfl⟩
  · obtain ⟨h, -, hinside, hends⟩ := ends_of_cut_packet hst hpk hk
    obtain ⟨hwaits, hhunt⟩ := hinside hk2
    exact ⟨_, _, hends _ _ _ (.last (step_timeout hwaits)), .inl (by rw [hhunt]; rfl)⟩
  · obtain ⟨h, hwaits, -, hends⟩ := ends_of_cut_packet hst hpk hk
    exact ⟨_, _, hends _ _ _ (.last (step_fail hwaits)), .inl rfl⟩
  · obtain ⟨g, -, -, hfeed⟩ := feed_sprx hst hpk []
    rw [List.append_nil] at hfeed
    exact ⟨g, _, ends_of_feed hfeed, .inr ⟨pk, rfl, hdec⟩⟩
  · obtain ⟨pk, body, t0, t1, hpk, hreply, hcmd, hcrc, hpayload, hbody⟩ :=
      extReply_packet (p := p) sub (payload := [code.byte]) (by split <;> simp)
    have hraw : replyOf p sub [code.byte] = pk.raw := by rw [replyOf, hreply]
    obtain ⟨g, -, -, hfeed⟩ := feed_sprx hst hpk []
    rw [List.append_nil] at hfeed
    exact ⟨g, _, hraw ▸ ends_of_feed hfeed, .inr ⟨pk, rfl, extDecode_nack hcmd hcrc hpayload hbody hack⟩⟩

/-- Settles O44: each of the four operations is one exchange whose last frame drops the session at an error. -/
theorem ftErrorsDiscardTheSession : Obligations.FtErrorsDiscardTheSession := by
  rintro i sub request a address n data run c s p rfl hdevice hi
  obtain ⟨op, f, hrow, hchunk, h⟩ :
      ∃ op f, opInstr op = some i ∧ chunked op = true ∧ SessionStep op sub request c f s := by
    obtain ⟨rfl, rfl, rfl, rfl⟩ | ⟨rfl, rfl, rfl, rfl⟩ | ⟨rfl, rfl, rfl⟩ | ⟨rfl, rfl, rfl, rfl⟩ := hi
    · exact ⟨.init a, .init a.length a.address a.crc, rfl, rfl, rfl, rfl, fun _ _ => rfl⟩
    · exact ⟨.write address data, .write address data.length, rfl, rfl, rfl, rfl, fun _ _ => rfl⟩
    · exact ⟨.read address n c, .read address n, rfl, rfl, rfl, rfl, fun _ _ => rfl⟩
    · exact ⟨.complete run, .complete, rfl, rfl, rfl, rfl, fun _ _ => rfl⟩
  rw [exec_session hrow h.session hchunk hdevice]
  refine ⟨fun hbusy => ?_, fun hidle hover => ?_, fun k ws hidle hfit hlost => ?_,
    fun pk k code x es rest hidle hread haccept hfit hes hrx => ?_⟩
  · rw [h.invoke_of_error (request_of_busy hbusy sub request _)]
    rfl
  · rw [h.invoke_of_error (request_of_error hidle (extTx_overlong sub hover) _)]
    rfl
  · rw [h.invoke_of_error (request_of_lost hidle (extTx_of_length hfit sub) hlost _)]
    rfl
  · obtain ⟨g, o, hends, hfails⟩ := ends_with_error s.sp.arm_st hes
    exact ⟨g, hends.idle (by simp), _, congrArg _ (h.invoke_fails hidle hread haccept hfit hends hfails hrx), rfl,
      primary_idle rfl rfl⟩

end Sys2Proof.Machine
end

section
/-! Whole sessions (O45 to O47; 44_host_protocols R193, R204): the chunks, and the exchanges of an upload or a download one
after another. -/

namespace Sys2Proof.Machine

/-! The chunks (44_host_protocols R193). -/

theorem chunkAt_length (payload : Bytes) (m i : Nat) : (chunkAt payload m i).length = chunkSize payload.length m i := by
  rw [chunkAt, List.length_take, List.length_drop, chunkSize]

/-- The first `k` chunks are the payload up to where chunk `k` begins. -/
theorem flatMap_chunkAt (payload : Bytes) (m k : Nat) :
    (List.range k).flatMap (chunkAt payload m) = payload.take (k * m) := by
  induction k with
  | zero => simp
  | succ k ih => rw [List.range_succ, List.flatMap_append, ih, List.flatMap_singleton, chunkAt, ← List.take_add, Nat.succ_mul]

/-- There are enough chunks for `len` bytes. -/
theorem le_chunkCount_mul {m : Nat} (len : Nat) (hm : 0 < m) : len ≤ chunkCount len m * m := by
  have h := Nat.lt_div_mul_add hm (a := len + m - 1)
  rw [chunkCount]
  omega

/-- A chunk begins before the end. -/
theorem mul_lt_of_lt_chunkCount {len m i : Nat} (hm : 0 < m) (h : i < chunkCount len m) : i * m < len := by
  have hle : (i + 1) * m ≤ len + m - 1 := (Nat.le_div_iff_mul_le hm).mp h
  rw [Nat.succ_mul] at hle
  omega

/-- Settles O45: the chunks are cut where the one before ends, and there are just enough of them. -/
theorem chunksCoverThePayload : Obligations.ChunksCoverThePayload := by
  refine fun payload m hm => ⟨?_, fun i hi => ?_, fun i hi => ?_, chunkAt_length payload m⟩
  · rw [flatMap_chunkAt, List.take_of_length_le (le_chunkCount_mul _ hm)]
  · have hnext := mul_lt_of_lt_chunkCount hm hi
    rw [Nat.succ_mul] at hnext
    rw [chunkAt_length, chunkSize, Nat.min_eq_left (by omega)]
  · have hlast := le_chunkCount_mul payload.length hm
    rw [← hi, Nat.succ_mul] at hlast
    rw [chunkAt_length, chunkSize, Nat.min_eq_right (by omega), Nat.mul_comm]

/-! One exchange after another. -/

/-- A frame that is done hands its outcome to the frames behind it. -/
theorem unwind_done {f : Frame} {r r' : Res} {s t : State} (h : f.resume r s = .done r' t) (fs : List Frame) :
    State.unwind (f :: fs) r s = State.unwind fs r' t := by
  simp only [State.unwind, h]

theorem talked_talked (m n : Nat) (v w : Bytes) (es rest : List Event) (f f' : Framer) (fs fs' : Option (List Frame))
    (g g' : Option Session) (s : State) :
    (s.talked m v es f fs g).talked n w rest f' fs' g' = s.talked (m + n) (v ++ w) rest f' fs' g' := by
  simp [State.talked]

/-- No exchange leaves the state as it is. -/
theorem talked_zero {s : State} {rest : List Event} (hquery : s.querying = false) (hrx : s.chan.rx = rest) :
    s.talked 0 [] rest s.sp s.task s.ft = s := by
  subst hrx
  simp [State.talked, ← hquery]

theorem free_add {s : State} {m n : Nat} (h : s.Free (m + n)) : s.Free m where
  idle := h.idle
  quiet := h.quiet
  accepts := (accepts_add.mp h.accepts).1
  ack := h.ack

/-- Exchanges leave the rest of them free to begin. -/
theorem free_talked {s : State} {m n : Nat} (h : s.Free (m + n)) {f : Framer} (hf : f.st = .idle) (w : Bytes)
    (rest : List Event) (fs : Option (List Frame)) (g : Option Session) : (s.talked m w rest f fs g).Free n where
  idle := hf
  quiet := h.quiet
  accepts := (accepts_add.mp h.accepts).2
  ack := h.ack

/-- A flow as a part of the machine with nothing below it, the channel's events taken. -/
def Flow.run (x : Flow) : State := (x.under []).settle

/-- A flow that begins an exchange gets its reply. -/
theorem run_launch_answered {op : HostOp} {s : State} {x : Exchange} {fs after : List Frame} {rest : List Event}
    (hs : s.Free 1) (hx : x.Fits s.params) (hrx : s.chan.rx = byteEvents (x.reply s.params) ++ rest)
    (hop : startHost op s = s.request x.sub x.request (x.frames fs)) : ∃ g : Framer, g.st = .idle ∧
      (launch op after s).run = (State.unwind (fs ++ after) (.ok (.bytes x.data))
        (s.talked 1 x.wire rest g (some (x.frames (fs ++ after))) s.ft)).settle := by
  obtain ⟨g, hg, h⟩ := settle_asked_answered hs hx hrx
  refine ⟨g, hg, ?_⟩
  rw [launch_asks hs hx hop, Flow.run, Flow.under, List.append_nil]
  exact h (fs ++ after)

/-- A chunk's exchange is acknowledged, and the frame `g` behind it goes on. -/
theorem run_chunk_answered {op : HostOp} {s : State} {x : Exchange} {f g : Frame} {r : Res} {address : Nat}
    {rest : List Event} (hs : s.Free 1) (hx : x.Fits s.params) (hrx : s.chan.rx = byteEvents (x.reply s.params) ++ rest)
    (hop : startHost op s = s.request x.sub x.request (x.frames [f]))
    (hf : ∀ t : State, t.params = s.params → f.resume (.ok (.bytes x.data)) t = .done r (t.advanceSession address)) :
    ∃ h fs ft, h.st = .idle ∧ (launch op [g] s).run = (g.resume r (s.talked 1 x.wire rest h fs ft)).run := by
  obtain ⟨h, hh, hrun⟩ := run_launch_answered (after := [g]) hs hx hrx hop
  refine ⟨h, some (x.frames [f, g]), s.ft.map fun y => { y with address := address }, hh, hrun.trans ?_⟩
  have hstep := hf (s.talked 1 x.wire rest h (some (x.frames [f, g])) s.ft) rfl
  rw [List.singleton_append, unwind_done hstep, unwind_singleton]
  rfl

/-- Chunk by chunk: while one of `n` chunks is left, `next` makes the exchange `x` of it, and then goes on with the next. -/
def Advances (p : Params) (n : Nat) (x : Nat → Exchange) (next : Nat → State → Flow) : Prop :=
  ∀ i < n, ∀ (s : State) (rest : List Event), s.Free 1 → s.params = p →
    s.chan.rx = byteEvents ((x i).reply p) ++ rest → ∃ f fs g, f.st = .idle ∧
      (next i s).run = (next (i + 1) (s.talked 1 (x i).wire rest f fs g)).run

/-- All chunks, in order. -/
theorem Advances.all {p : Params} {n : Nat} {x : Nat → Exchange} {next : Nat → State → Flow} (h : Advances p n x next)
    {k : Nat} (hk : k ≤ n) {s : State} {rest : List Event} (hs : s.Free k) (hp : s.params = p) (hquery : s.querying = false)
    (hrx : s.chan.rx = byteEvents ((List.range k).flatMap fun i => (x i).reply p) ++ rest) : ∃ f fs g, f.st = .idle ∧
      (next 0 s).run = (next k (s.talked k ((List.range k).flatMap fun i => (x i).wire) rest f fs g)).run := by
  induction k generalizing rest with
  | zero => exact ⟨s.sp, s.task, s.ft, hs.idle, by
      rw [List.range_zero, List.flatMap_nil, talked_zero hquery (rest := rest) hrx]⟩
  | succ k ih =>
    rw [List.range_succ, List.flatMap_append, List.flatMap_singleton, byteEvents_append, List.append_assoc] at hrx
    obtain ⟨f, fs, g, hf, hrun⟩ := ih (Nat.le_of_succ_le hk) (free_add hs) hrx
    obtain ⟨f', fs', g', hf', hstep⟩ := h k hk _ rest (free_talked hs hf _ _ fs g) hp rfl
    refine ⟨f', fs', g', hf', ?_⟩
    rw [hrun, hstep, talked_talked, List.range_succ, List.flatMap_append, List.flatMap_singleton]

theorem flatten_replicate (n : Nat) (w : Bytes) : (List.replicate n w).flatten = (List.range n).flatMap fun _ => w := by
  rw [List.flatMap_def, List.map_const', List.length_range]

/-! Initialization, chunks, completion (44_host_protocols R204). -/

/-- An initialization that allots enough opens the session, and the frame behind it goes on. -/
theorem invoke_opens {op : HostOp} {a : InitArgs} {first : Frame} {q : Bytes} {s t : State} {rest : List Event} {x : Exchange}
    (hx : x = initExchange t.params.layouts a q) (ht : t.Free 1) (hfits : x.Fits t.params)
    (hallot : a.length ≤ sliceNat q t.params.layouts.fileSize) (hrx : t.chan.rx = byteEvents (x.reply t.params) ++ rest)
    (hop : startHost op s = t.request x.sub x.request (x.frames [.init a.length a.address a.crc, first])) :
    ∃ f fs g, f.st = .idle ∧ s.invoke op =
      (first.resume (.ok (openedValue t.params.layouts q)) (t.talked 1 x.wire rest f fs g)).run := by
  obtain ⟨f, hf, h⟩ := invoke_answered ht hfits hrx hop
  have hopen := resume_init (s := t.talked 1 x.wire rest f (some (x.frames [.init a.length a.address a.crc, first])) t.ft)
    (address := a.address) (crc := a.crc) (not_lt.mpr hallot)
  refine ⟨f, some (x.frames [.init a.length a.address a.crc, first]),
    some (openedSession t.params.layouts q a.length a.address a.crc), hf, h.trans ?_⟩
  subst hx
  exact (congrArg State.settle (unwind_done hopen [first])).trans (congrArg State.settle (unwind_singleton first _ _))

/-- A completion drops the session, and the frames `after` it end the operation. -/
theorem run_complete_answered {run : RunOption} {after : List Frame} {r : Res} {s : State} {rest : List Event}
    {p : Params} (hs : s.Free 1) (hp : s.params = p) (hfit : (completePayload p.layouts run).length ≤ 32767)
    (hrx : s.chan.rx = byteEvents ((completeExchange p.layouts run).reply p) ++ rest)
    (hafter : ∀ t : State, State.unwind after (.ok .unit) t = State.report .owner r { t with task := none }) :
    ∃ f : Framer, f.st = .idle ∧ (launch (.complete run) after s).run =
      (s.talked 1 (completeExchange p.layouts run).wire rest f none none).report .owner r := by
  subst hp
  obtain ⟨f, hf, h⟩ := run_launch_answered (op := .complete run) (x := completeExchange s.params.layouts run)
    (fs := [.complete]) (after := after) hs (ackOnly_fits rfl rfl hfit _) hrx rfl
  refine ⟨f, hf, h.trans ?_⟩
  rw [List.singleton_append, unwind_done (r' := .ok .unit) rfl, hafter]
  exact settle_of_ended hs.quiet rfl

/-- A whole session: an initialization, `n` chunks, and a completion, after which the operation ends with
the outcome `r`. -/
structure WholeSession (p : Params) (a : InitArgs) (first : Frame) (n : Nat) (x : Nat → Exchange)
    (next : Nat → State → Flow) (run : RunOption) (after : List Frame) (r : Res) : Prop where
  opens : ∀ q s, first.resume (.ok (openedValue p.layouts q)) s = next 0 s
  advances : Advances p n x next
  closes : ∀ s, next n s = launch (.complete run) after s
  ends : ∀ s, State.unwind after (.ok .unit) s = State.report .owner r { s with task := none }

/-- A session in which every exchange is acknowledged goes through its requests in order and ends, the session dropped. -/
theorem WholeSession.invoke {p : Params} {a : InitArgs} {first : Frame} {n : Nat} {x : Nat → Exchange}
    {next : Nat → State → Flow} {run : RunOption} {after : List Frame} {r : Res} {op : HostOp} {q : Bytes} {s t : State}
    {rest : List Event} (h : WholeSession p a first n x next run after r) (hp : t.params = p) (ht : t.Free (n + 2))
    (hop : startHost op s = t.request 0x11 (initPayload p.layouts a)
      [.decode 0x11 (initChecks p.layouts), .init a.length a.address a.crc, first])
    (hinit : (initExchange p.layouts a q).Fits p) (hallot : a.length ≤ sliceNat q p.layouts.fileSize)
    (hcomplete : (completePayload p.layouts run).length ≤ 32767)
    (hrx : t.chan.rx = byteEvents ((initExchange p.layouts a q).reply p ++
      (List.range n).flatMap (fun i => (x i).reply p) ++ (completeExchange p.layouts run).reply p) ++ rest) :
    ∃ f : Framer, f.st = .idle ∧ s.invoke op = (t.talked (n + 2) ((initExchange p.layouts a q).wire ++
      (List.range n).flatMap (fun i => (x i).wire) ++ (completeExchange p.layouts run).wire) rest f none none).report
        .owner r := by
  subst hp
  rw [byteEvents_append, byteEvents_append, List.append_assoc, List.append_assoc] at hrx
  have ht₁ : t.Free (1 + (n + 1)) := by rwa [Nat.add_comm 1]
  obtain ⟨f₁, fs₁, g₁, hf₁, hopen⟩ := invoke_opens rfl (free_add ht₁) hinit hallot hrx hop
  obtain ⟨f₂, fs₂, g₂, hf₂, hchunks⟩ := h.advances.all le_rfl (free_add (free_talked ht₁ hf₁ _ _ fs₁ g₁)) rfl rfl rfl
  obtain ⟨f₃, hf₃, hclose⟩ := run_complete_answered (run := run) (p := t.params)
    (free_talked (free_talked ht₁ hf₁ _ _ fs₁ g₁) hf₂ _ _ fs₂ g₂) rfl hcomplete rfl h.ends
  refine ⟨f₃, hf₃, ?_⟩
  rw [hopen, h.opens, hchunks, h.closes, hclose, talked_talked, talked_talked, Nat.add_comm 1, List.append_assoc]

/-! `FT.UPLOAD`. -/

/-- The operands of an upload's chunk `i` (44_host_protocols R193, R204). -/
def uploadChunk (p : Params) (u : UploadArgs) (i : Nat) : Exchange :=
  writeExchange p (u.address + i * u.chunk) (chunkAt u.payload u.chunk i)

/-- An upload writes its chunks. -/
theorem upload_advances {p : Params} {u : UploadArgs}
    (hfit : ∀ i < chunkCount u.payload.length u.chunk, (uploadChunk p u i).request.length ≤ 32767) :
    Advances p (chunkCount u.payload.length u.chunk) (uploadChunk p u) (uploadNext u) := by
  rintro i hi s rest hs rfl hrx
  have hnext : uploadNext u i s = launch (.write (u.address + i * u.chunk) (chunkAt u.payload u.chunk i))
      [.upload u (i + 1)] s := if_pos hi
  rw [hnext]
  exact run_chunk_answered (x := uploadChunk s.params u i) (r := .ok .unit)
    (f := .write (u.address + i * u.chunk) (chunkAt u.payload u.chunk i).length) hs
    (ackOnly_fits rfl rfl (hfit i hi) _) hrx rfl fun _ _ => rfl

/-- An upload is a whole session. -/
theorem upload_session {p : Params} {u : UploadArgs}
    (hfit : ∀ i < chunkCount u.payload.length u.chunk, (uploadChunk p u i).request.length ≤ 32767) :
    WholeSession p (uploadInit u) (.upload u 0) (chunkCount u.payload.length u.chunk) (uploadChunk p u) (uploadNext u)
      u.run [] (.ok .unit) where
  opens _ _ := rfl
  advances := upload_advances hfit
  closes _ := if_neg (lt_irrefl _)
  ends _ := rfl

/-- The operands of an upload's `FT.INIT`, with the CRC-32 in its bit-serial form. -/
theorem uploadInit_eq (u : UploadArgs) : uploadInit u = ⟨u.name, .upload, u.target, u.volume, u.payload.length, u.address,
    crcBitwise 0x04C11DB7#32 u.payload 0, u.overwrite, u.typeTag, u.timestamp, u.version⟩ := by
  rw [uploadInit, crc32_eq_crcBitwise]

/-- Settles O46: the session begins with the CRC-32 in `acc32`. -/
theorem ftUploadSendsEveryChunkInOrder : Obligations.FtUploadSendsEveryChunkInOrder := by
  rintro u q rest s p rfl n hn chunkRequest rfl start rfl hm hdevice hidle hread haccept hack hq hmax hallot hstart hchunks
    hcomplete hrx
  obtain rfl : n = chunkCount u.payload.length u.chunk := hn
  rw [← uploadInit_eq] at hstart ⊢
  rw [flatten_replicate] at hrx
  obtain ⟨f, hf, h⟩ := (upload_session hchunks).invoke (op := .upload u) (s := s)
    (t := { s with acc32 := crc32 u.payload 0 }) rfl ⟨hidle, hread, haccept, hack⟩ rfl (initExchange_fits hstart hq hmax)
    hallot hcomplete hrx
  refine ⟨f, hf, ?_⟩
  rw [exec_session (op := .upload u) rfl rfl (bne_iff_ne.mpr hm.ne') hdevice, h, crc32_eq_crcBitwise]
  rfl

/-! `FT.DOWNLOAD`. -/

/-- A download's chunk `i`, with the reply's data `b` (44_host_protocols R193, R204). -/
def downloadChunk (l : Layouts) (d : DownloadArgs) (block : Nat → Bytes) (i : Nat) : Exchange :=
  readExchange l (d.address + i * d.chunk) (chunkSize d.length d.chunk i) d.checks (block i)

/-- What the first `k` chunks bring. -/
def downloaded (l : Layouts) (d : DownloadArgs) (block : Nat → Bytes) (k : Nat) : Bytes :=
  (List.range k).flatMap fun i => readData l (chunkSize d.length d.chunk i) (block i)

theorem downloaded_succ (l : Layouts) (d : DownloadArgs) (block : Nat → Bytes) (k : Nat) :
    downloaded l d block (k + 1) = downloaded l d block k ++ readData l (chunkSize d.length d.chunk k) (block k) := by
  rw [downloaded, List.range_succ, List.flatMap_append, List.flatMap_singleton]
  rfl

/-- A download reads its chunks, and joins what they bring. -/
theorem download_advances {p : Params} {d : DownloadArgs} {block : Nat → Bytes}
    (hfit : ∀ i < chunkCount d.length d.chunk, (downloadChunk p.layouts d block i).Fits p) :
    Advances p (chunkCount d.length d.chunk) (downloadChunk p.layouts d block)
      fun i => downloadNext d i (downloaded p.layouts d block i) := by
  rintro i hi s rest hs rfl hrx
  have hnext : ∀ out, downloadNext d i out s = launch
      (.read (d.address + i * d.chunk) (chunkSize d.length d.chunk i) d.checks) [.download d (i + 1) out] s :=
    fun _ => if_pos hi
  simp only [hnext, downloaded_succ]
  refine run_chunk_answered (x := downloadChunk s.params.layouts d block i)
    (f := .read (d.address + i * d.chunk) (chunkSize d.length d.chunk i))
    (r := .ok (.bytes (readData s.params.layouts (chunkSize d.length d.chunk i) (block i))))
    (address := d.address + i * d.chunk + chunkSize d.length d.chunk i) hs (hfit i hi) hrx rfl fun t ht => ?_
  rw [← ht]
  rfl

/-- A download is a whole session. -/
theorem download_session {p : Params} {d : DownloadArgs} {block : Nat → Bytes}
    (hfit : ∀ i < chunkCount d.length d.chunk, (downloadChunk p.layouts d block i).Fits p) :
    WholeSession p (downloadInit d) (.download d 0 []) (chunkCount d.length d.chunk) (downloadChunk p.layouts d block)
      (fun i => downloadNext d i (downloaded p.layouts d block i)) .dontRun
      [.downloaded (downloaded p.layouts d block (chunkCount d.length d.chunk))]
      (.ok (.bytes (downloaded p.layouts d block (chunkCount d.length d.chunk)))) where
  opens _ _ := rfl
  advances := download_advances hfit
  closes _ := if_neg (lt_irrefl _)
  ends _ := rfl

/-- Settles O47. -/
theorem ftDownloadJoinsTheChunks : Obligations.FtDownloadJoinsTheChunks := by
  rintro d q block rest s p rfl n hn size rfl chunkRequest rfl start rfl hm hdevice hidle hread haccept hack hq hmax hallot
    hstart hchunks hblocks hcomplete hrx
  obtain rfl : n = chunkCount d.length d.chunk := hn
  have hfit : ∀ i < chunkCount d.length d.chunk, (downloadChunk s.params.layouts d block i).Fits s.params := fun i hi =>
    ⟨hchunks i hi, (hblocks i hi).1, (hblocks i hi).2⟩
  obtain ⟨f, hf, h⟩ := (download_session hfit).invoke (op := .download d) (s := s) (t := s) rfl
    ⟨hidle, hread, haccept, hack⟩ rfl (initExchange_fits hstart hq hmax) hallot hcomplete hrx
  refine ⟨f, hf, ?_⟩
  rw [exec_session (op := .download d) rfl rfl (bne_iff_ne.mpr hm.ne') hdevice, h]
  rfl

end Sys2Proof.Machine
end

section
/-! The legacy device (O51; 44_host_protocols R200, R201) and the errors that are retried (O49; R197). -/

namespace Sys2Proof.Machine

/-! Which errors are retried (44_host_protocols R197). -/

theorem exec_classify {e : Err} {v : Bool} {s : State} (h : classifyErr s.params e = v) :
    exec (.classify e) s = .next (s.report .owner (.ok (.retried v))) := h ▸ rfl

/-- Settles O49: the table of `CLASSIFY`, and the default set written out. -/
theorem classifyFollowsTheTable : Obligations.ClassifyFollowsTheTable := by
  refine fun s => ⟨fun e he => ?_, fun e he => ?_, fun code => rfl, fun hwf => ?_, fun code => ?_⟩
  · obtain rfl | rfl | ⟨b, rfl⟩ | rfl | ⟨b, rfl⟩ | ⟨b, rfl⟩ := he <;> exact exec_classify rfl
  · obtain ⟨r, rfl⟩ | rfl | ⟨n, rfl⟩ | ⟨n, rfl⟩ | ⟨t, rfl⟩ | rfl := he <;> exact exec_classify rfl
  · simp only [Params.wf, Bool.and_eq_true, Bool.not_eq_true'] at hwf
    exact exec_classify hwf.2
  · have hset : State.reset.params.nackTransient = [.general, .crcError, .programCrcError] := rfl
    rw [hset, List.mem_cons, List.mem_cons, List.mem_singleton]

/-! One command and its answer (44_host_protocols R200). -/

/-- A command in order is sent, and takes the answer that is foretold. -/
theorem command_in_order {op : BootOp} {l : Legacy} {a : BootAnswer} {as : List BootAnswer} (horder : l.inOrder op = true)
    (h : l.answers = a :: as) : l.command op = (a, { l with sent := l.sent ++ [op], answers := as }) := by
  simp only [Legacy.command, Legacy.answer, h]
  exact if_pos horder

/-- The handshake in order goes on to the first answer that says it is done, or to its bound. -/
theorem handshake_in_order {l : Legacy} {n : Nat} {lost as : List BootAnswer} {a : BootAnswer}
    (horder : l.inOrder .handshake = true) (hlost : .done ∉ lost) (h : l.answers = lost ++ a :: as)
    (hn : lost.length = n ∨ a = .done ∧ lost.length ≤ n) : l.handshake n =
      (a, { l with sent := l.sent ++ List.replicate (lost.length + 1) .handshake, answers := as }) := by
  induction lost generalizing l n with
  | nil =>
    have hone := command_in_order horder h
    cases n with
    | zero => exact hone
    | succ n =>
      obtain ⟨rfl, -⟩ := hn.resolve_left nofun
      rw [Legacy.handshake, hone]
      rfl
  | cons b lost ih =>
    rw [List.mem_cons, not_or] at hlost
    have hone := command_in_order horder h
    obtain ⟨n, rfl⟩ : ∃ m, n = m + 1 := ⟨n - 1, by simp only [List.length_cons] at hn; omega⟩
    have hgo : l.handshake (n + 1) =
        Legacy.handshake n { l with sent := l.sent ++ [.handshake], answers := lost ++ a :: as } := by
      rw [Legacy.handshake, hone]
      cases b with
      | done => exact absurd rfl hlost.1
      | silent | failed => rfl
    rw [hgo, ih (l := { l with sent := l.sent ++ [.handshake], answers := lost ++ a :: as }) horder hlost.2 rfl
      (by simpa using hn)]
    simp [List.replicate_succ]

theorem ask_handshake (n : Nat) (l : Legacy) : l.ask n .handshake = l.handshake n := rfl

/-- Every operation but the handshake is one command. -/
theorem ask_of_command {op : BootOp} (h : op ≠ .handshake) (n : Nat) (l : Legacy) : l.ask n op = l.command op := by
  cases op with
  | handshake => exact absurd rfl h
  | erase | programWrite | jump => rfl

/-- An operation in order whose first answer is that it is done is sent once. -/
theorem ask_done {op : BootOp} {l : Legacy} {as : List BootAnswer} (horder : l.inOrder op = true)
    (h : l.answers = .done :: as) (n : Nat) :
    l.ask n op = (.done, { l with sent := l.sent ++ [op], answers := as }) := by
  by_cases hop : op = .handshake
  · subst hop
    exact handshake_in_order (lost := []) horder nofun h (.inr ⟨rfl, Nat.zero_le n⟩)
  · rw [ask_of_command hop, command_in_order horder h]

/-! An operation that ends (44_host_protocols R200, R201). -/

theorem perform_of_success {n : Nat} {op : BootOp} {l m : Legacy} {a : BootAnswer} (h : l.ask n op = (a, m))
    (hok : bootError a op = none) : l.perform n op = (.ok .unit, m.advance op) := by
  rw [Legacy.perform, h]
  simp only [hok]

theorem perform_of_failure {n : Nat} {op : BootOp} {l m : Legacy} {a : BootAnswer} {e : Err} (h : l.ask n op = (a, m))
    (herr : bootError a op = some e) : l.perform n op = (.error e, m) := by
  rw [Legacy.perform, h]
  simp only [herr]

/-- Success in order takes the chain's arrow. -/
theorem advance_of_arrow {op : BootOp} {l : Legacy} {l' : LegacyState} (h : l.st.after op = some l') :
    l.advance op = { l with st := l', last := l.nextLast op } := by
  simp only [Legacy.advance, Legacy.next, h]

/-! `RETRY` of an operation of the legacy device (44_host_protocols R196). -/

/-- The attempts of an operation, at most `left` after the first: the outcome of the last one, and what they leave. -/
def bootAttempts (p : Params) (choice : Retryable) (op : BootOp) : (left : Nat) → Legacy → Res × Legacy
  | 0, l => l.perform p.bootExtraTries op
  | left + 1, l =>
    if (l.perform p.bootExtraTries op).1.again p choice then
      bootAttempts p choice op left (l.perform p.bootExtraTries op).2
    else l.perform p.bootExtraTries op

theorem attempts_boot (op : BootOp) (policy : RetryPolicy) (left attempt : Nat) (s : State) :
    attempts (.boot op) policy left attempt s = .done (bootAttempts s.params policy.retryable op left s.legacy).1
      { s with legacy := (bootAttempts s.params policy.retryable op left s.legacy).2 } := by
  have hlaunch : ∀ s : State, launch (.boot op) [] s = .done (s.legacy.perform s.params.bootExtraTries op).1
      { s with legacy := (s.legacy.perform s.params.bootExtraTries op).2 } := fun s => by
    simp only [launch, startHost]
    cases (s.legacy.perform s.params.bootExtraTries op).1 <;> rfl
  induction left generalizing attempt s with
  | zero => exact (attempts_of_done (attemptOnce_of_done (hlaunch s) policy attempt) 0).trans (if_neg (by simp))
  | succ left ih =>
    rw [attempts_of_done (attemptOnce_of_done (hlaunch s) policy attempt), bootAttempts]
    by_cases hagain : (s.legacy.perform s.params.bootExtraTries op).1.again s.params policy.retryable = true
    · rw [if_pos ⟨hagain, Nat.succ_pos left⟩, if_pos hagain]
      exact ih _ _
    · rw [if_neg (fun h => hagain h.1), if_neg hagain]

/-- On a legacy device an operation that is not too long is carried out (44_host_protocols R202). -/
theorem exec_retry_boot {op : BootOp} {policy : RetryPolicy} {s : State} (hdevice : s.device = .legacy)
    (hmax : 1 ≤ policy.max) (hshort : ∀ a d, op = .programWrite a d → d.length ≤ 256) :
    exec (.retry (.boot op) policy) s = .next (State.report .owner
      (bootAttempts s.params policy.retryable op (policy.max - 1) s.legacy).1
      { s with legacy := (bootAttempts s.params policy.retryable op (policy.max - 1) s.legacy).2 }) := by
  have hserves : s.device.serves (opCapability (.boot op)) = true := by rw [hdevice]; cases op <;> rfl
  have hfits : bootShort op = true := by
    cases op with
    | programWrite a d => exact decide_eq_true (hshort a d rfl)
    | handshake | erase | jump => rfl
  have hobj : s.objection (.boot op) = none := by simp [State.objection, chunked, hserves, hfits]
  rw [exec_retry (by omega) hobj, attempts_boot]
  rfl

/-- An outcome that is not repeated is that of the first attempt. -/
theorem bootAttempts_of_end {p : Params} {choice : Retryable} {op : BootOp} {left : Nat} {l m : Legacy} {r : Res}
    (h : l.perform p.bootExtraTries op = (r, m)) (hend : left = 0 ∨ r.again p choice = false) :
    bootAttempts p choice op left l = (r, m) := by
  cases left with
  | zero => exact h
  | succ left => rw [bootAttempts, h, if_neg (by simpa using hend)]

/-! Out of order (44_host_protocols R200; log 26). -/

/-- The record after `k` commands out of order that did not succeed. -/
def Legacy.tried (op : BootOp) (k : Nat) (l : Legacy) : Legacy :=
  { l with sent := l.sent ++ List.replicate k op, asked := l.asked + k }

theorem tried_tried (op : BootOp) (j k : Nat) (l : Legacy) : (l.tried op j).tried op k = l.tried op (j + k) := by
  simp only [Legacy.tried, List.replicate_add, List.append_assoc, Nat.add_assoc]

/-- The handshake out of order is sent at least once, and up to its bound. -/
theorem handshake_out_of_order {l : Legacy} (h : l.inOrder .handshake = false) (n : Nat) :
    ∃ a k, 1 ≤ k ∧ k ≤ n + 1 ∧ l.handshake n = (a, l.tried .handshake k) := by
  induction n generalizing l with
  | zero => exact ⟨_, 1, le_rfl, le_rfl, legacy_command_out_of_order .handshake l h⟩
  | succ n ih =>
    have hone := legacy_command_out_of_order .handshake l h
    obtain ⟨a, k, hk, hkn, hrest⟩ := ih (l := l.tried .handshake 1) h
    rw [tried_tried] at hrest
    rw [Legacy.handshake, hone]
    cases Config.bootAnswer l.asked with
    | done => exact ⟨.done, 1, le_rfl, by omega, rfl⟩
    | silent | failed => exact ⟨a, 1 + k, by omega, by omega, hrest⟩

theorem ask_out_of_order {op : BootOp} {l : Legacy} (h : l.inOrder op = false) (n : Nat) :
    ∃ a k, 1 ≤ k ∧ k ≤ n + 1 ∧ (op ≠ .handshake → k = 1) ∧ l.ask n op = (a, l.tried op k) := by
  by_cases hop : op = .handshake
  · subst hop
    obtain ⟨a, k, hk, hkn, hask⟩ := handshake_out_of_order h n
    exact ⟨a, k, hk, hkn, fun hne => absurd rfl hne, hask⟩
  · exact ⟨_, 1, le_rfl, by omega, fun _ => rfl, (ask_of_command hop n l).trans (legacy_command_out_of_order op l h)⟩

/-- How an operation out of order ends after `k` commands: the chain may go on to where the operation enters, or the error
leaves it. -/
def EndsOutOfOrder (op : BootOp) (l : Legacy) (k : Nat) (x : Res × Legacy) : Prop :=
  x = (.ok .unit, (l.tried op k).advance op) ∨ ∃ e, x = (.error e, l.tried op k)

theorem perform_out_of_order {op : BootOp} {l : Legacy} (h : l.inOrder op = false) (n : Nat) :
    ∃ k, 1 ≤ k ∧ k ≤ n + 1 ∧ (op ≠ .handshake → k = 1) ∧ EndsOutOfOrder op l k (l.perform n op) := by
  obtain ⟨a, k, hk, hkn, hone, hask⟩ := ask_out_of_order h n
  refine ⟨k, hk, hkn, hone, ?_⟩
  cases herr : bootError a op with
  | none => exact .inl (perform_of_success hask herr)
  | some e => exact .inr ⟨e, perform_of_failure hask herr⟩

/-- The attempts of an operation out of order: a failure leaves it out of order. -/
theorem bootAttempts_out_of_order {p : Params} {choice : Retryable} {op : BootOp} {l : Legacy} (h : l.inOrder op = false)
    (left : Nat) : ∃ k, 1 ≤ k ∧ k ≤ (left + 1) * (p.bootExtraTries + 1) ∧ (op ≠ .handshake → k ≤ left + 1) ∧
      EndsOutOfOrder op l k (bootAttempts p choice op left l) := by
  induction left generalizing l with
  | zero =>
    obtain ⟨k, hk, hkn, hone, hend⟩ := perform_out_of_order h p.bootExtraTries
    exact ⟨k, hk, by omega, fun hne => (hone hne).le, hend⟩
  | succ left ih =>
    obtain ⟨k, hk, hkn, hone, hend⟩ := perform_out_of_order h p.bootExtraTries
    have hmul : (left + 1 + 1) * (p.bootExtraTries + 1) = (left + 1) * (p.bootExtraTries + 1) + (p.bootExtraTries + 1) :=
      Nat.succ_mul _ _
    rw [bootAttempts]
    split
    · next hagain =>
      obtain hok | ⟨e, herr⟩ := hend
      · rw [hok] at hagain
        cases hagain
      · obtain ⟨j, hj, hjn, hjone, hrest⟩ := ih (l := l.tried op k) h
        rw [herr]
        refine ⟨k + j, by omega, by omega, fun hne => ?_, ?_⟩
        · have := hone hne
          have := hjone hne
          omega
        · simpa only [EndsOutOfOrder, tried_tried] using hrest
    · exact ⟨k, hk, by omega, fun hne => by have := hone hne; omega, hend⟩

/-! The chain (44_host_protocols R200). -/

/-- An operation out of order: the chain has no arrow for it, or its address does not increase. -/
theorem inOrder_eq_false {op : BootOp} {l : Legacy}
    (h : l.st.after op = none ∨ ∃ a d last, op = .programWrite a d ∧ l.last = some last ∧ a ≤ last) :
    l.inOrder op = false := by
  obtain h | ⟨a, d, last, rfl, hlast, hle⟩ := h
  · simp [Legacy.inOrder, h]
  · simp [Legacy.inOrder, Legacy.increasing, hlast, hle]

theorem inOrder_of_arrow {op : BootOp} {l : Legacy} {l' : LegacyState} (harrow : l.st.after op = some l')
    (h : ∀ a d, op = .programWrite a d → ∀ last, l.last = some last → last < a) : l.inOrder op = true := by
  have hup : l.increasing op = true := by
    cases op with
    | programWrite a d =>
      cases hlast : l.last with
      | none => simp [Legacy.increasing, hlast]
      | some last => simpa [Legacy.increasing, hlast] using h a d rfl last hlast
    | handshake | erase | jump => rfl
  simp [Legacy.inOrder, harrow, hup]

/-- The arrows of the chain: to the same state or the next one, and to the one that the operation enters. -/
theorem after_cases {l l' : LegacyState} {op : BootOp} (h : l.after op = some l') :
    (l' = l ∨ (l, l') ∈ ([(.unknown, .negotiated), (.negotiated, .erased), (.erased, .programming),
      (.programming, .jumped)] : List (LegacyState × LegacyState))) ∧
    ((op = .handshake ∧ l' = .negotiated) ∨ (∃ w, op = .erase w ∧ l' = .erased) ∨
      (∃ a d, op = .programWrite a d ∧ l' = .programming) ∨ (∃ a, op = .jump a ∧ l = .programming ∧ l' = .jumped)) := by
  unfold LegacyState.after at h
  split at h <;> cases h
  · exact ⟨.inr (by decide), .inl ⟨rfl, rfl⟩⟩
  · exact ⟨.inl rfl, .inl ⟨rfl, rfl⟩⟩
  · exact ⟨.inr (by decide), .inr (.inl ⟨_, rfl, rfl⟩)⟩
  · exact ⟨.inl rfl, .inr (.inl ⟨_, rfl, rfl⟩)⟩
  · exact ⟨.inr (by decide), .inr (.inr (.inl ⟨_, _, rfl, rfl⟩))⟩
  · exact ⟨.inl rfl, .inr (.inr (.inl ⟨_, _, rfl, rfl⟩))⟩
  · exact ⟨.inr (by decide), .inr (.inr (.inr ⟨_, rfl, rfl, rfl⟩))⟩

theorem after_jumped (op : BootOp) : LegacyState.jumped.after op = none := by cases op <;> rfl

/-- `RETRY` of an operation whose first attempt ends it. -/
theorem exec_retry_boot_of_end {op : BootOp} {policy : RetryPolicy} {s : State} {r : Res} {m : Legacy}
    (hdevice : s.device = .legacy) (hmax : 1 ≤ policy.max) (hshort : ∀ a d, op = .programWrite a d → d.length ≤ 256)
    (h : s.legacy.perform s.params.bootExtraTries op = (r, m))
    (hend : policy.max = 1 ∨ r.again s.params policy.retryable = false) :
    exec (.retry (.boot op) policy) s = .next { s with legacy := m, reports := s.reports ++ [⟨.owner, r⟩] } := by
  have hlast : policy.max - 1 = 0 ∨ r.again s.params policy.retryable = false := hend.imp_left (by omega)
  rw [exec_retry_boot hdevice hmax hshort, bootAttempts_of_end h hlast]
  rfl

/-- Settles O51: the chain by its arrows; an operation in order by what it is answered; one out of order by its attempts, each
of which leaves it out of order or ends it. -/
theorem legacyDeviceFollowsItsChain : Obligations.LegacyDeviceFollowsItsChain := by
  refine ⟨fun l l' op h => after_cases h, fun w a d => ⟨rfl, rfl, rfl, rfl, rfl⟩, after_jumped,
    fun op policy l' as s hdevice hmax harrow hwrite moved hmoved => ?_,
    fun op policy s hdevice hmax hshort hout => ?_⟩
  · have horder := inOrder_of_arrow harrow fun a d h => (hwrite a d h).2
    have hends := fun {r m} => exec_retry_boot_of_end (r := r) (m := m) hdevice hmax fun a d h => (hwrite a d h).1
    have hadvance : Legacy.advance op { s.legacy with sent := s.legacy.sent ++ [op], answers := as } = moved :=
      hmoved ▸ advance_of_arrow harrow
    refine ⟨fun hans => ?_, fun a hop hans => ?_, fun e hop hend hans => ?_, fun lost hop hlost hle hans => ?_,
      fun lost last e hop hlost hend hlen hlast hans => ?_⟩
    · exact hends (hadvance ▸ perform_of_success (ask_done horder hans _) rfl) (.inr rfl)
    · subst hop
      exact hends (hadvance ▸ perform_of_success (command_in_order horder hans) rfl) (.inr rfl)
    · obtain ⟨a, hfirst, herr⟩ : ∃ a, s.legacy.answers = a :: as ∧ bootError a op = some e := by
        obtain h | ⟨h, rfl, hjump⟩ := hans
        · exact ⟨_, h, rfl⟩
        · refine ⟨_, h, ?_⟩
          cases op with
          | jump a => exact absurd rfl (hjump a)
          | handshake | erase | programWrite => rfl
      exact hends (perform_of_failure ((ask_of_command hop _ _).trans (command_in_order horder hfirst)) herr) hend
    · subst hop
      obtain rfl := (legacy_after_cases harrow).1
      have hask := handshake_in_order horder hlost hans (.inr ⟨rfl, hle⟩)
      exact hends ((perform_of_success ((ask_handshake _ _).trans hask) rfl).trans
        (congrArg (Prod.mk _) (advance_of_arrow harrow))) (.inr rfl)
    · subst hop
      have hask := handshake_in_order horder hlost hans (.inl hlen)
      have herr : bootError last .handshake = some e := by
        obtain rfl | ⟨rfl, rfl⟩ := hlast <;> rfl
      exact hends (perform_of_failure ((ask_handshake _ _).trans hask) herr) hend
  · obtain ⟨k, hk, hkn, hone, hend⟩ := bootAttempts_out_of_order (p := s.params) (choice := policy.retryable)
      (inOrder_eq_false hout) (policy.max - 1)
    rw [Nat.sub_add_cancel hmax] at hkn hone
    rw [exec_retry_boot hdevice hmax hshort]
    obtain h | ⟨e, h⟩ := hend <;> rw [h]
    · refine ⟨k, .ok .unit, (s.legacy.tried op k).next op, (s.legacy.tried op k).nextLast op, hk, hkn, hone, rfl,
        .inl ⟨rfl, rfl, ?_⟩⟩
      obtain harrow | ⟨hnone, hstay | ⟨hrank, henter⟩⟩ := legacy_next_cases op (s.legacy.tried op k)
      · exact .inl harrow
      · exact .inr ⟨hnone, .inl hstay⟩
      · exact .inr ⟨hnone, .inr ⟨henter ▸ hrank, henter⟩⟩
    · exact ⟨k, .error e, s.legacy.st, s.legacy.last, hk, hkn, hone, rfl, .inr ⟨e, rfl, rfl, rfl⟩⟩

end Sys2Proof.Machine
end

section
/-! The cancellation of the stream reader and the refused widths and tags (O2, O29, O32; 60_exceptions R220 to R222). -/

namespace Sys2Proof.Machine

/-! Cancellation (43_mux_stream R174). -/

theorem cancelEvent_of_reading {s : State} (h : s.reading = true) : s.cancelEvent =
    State.raise .reader .cancelled { s with mux := { s.mux with cancel := true }, reading := false } := if_pos h

theorem cancelEvent_of_not_reading {s : State} (h : s.reading = false) :
    s.cancelEvent = { s with mux := { s.mux with cancel := true } } := if_neg (by simp [h])

/-- The event `cancel` in the place of a byte ends the `MUX.READ` that alone waits, and what follows stays in the channel. -/
theorem settle_read_cancel {s : State} {es : List Event} (hread : s.reading = true) (htask : s.task = none)
    (hrx : s.chan.rx = .cancel :: es) : s.settle = (s.withRx es).cancelEvent := by
  rw [settle_of_event (by simp [State.waiting, hread]) hrx]
  have hended : (s.withRx es).cancelEvent.settle = (s.withRx es).cancelEvent := by
    rw [cancelEvent_of_reading (s := s.withRx es) hread]
    exact settle_of_ended rfl htask
  exact hended

/-! `MUX.READ` by what it finds in its buffer (43_mux_stream R168). -/

/-- A `MUX.READ` that its buffer or the cancel flag ends at once takes nothing from the channel. -/
theorem exec_muxRead_of_ended {s t : State} (hread : s.reading = false) (hpoll : s.readerPoll = t)
    (ht : t.reading = false) (htask : t.task = none) : exec .muxRead s = .next t := by
  have hexec : exec .muxRead s = .next s.readerPoll.settle := if_neg (by simp [hread])
  rw [hexec, hpoll, settle_of_ended ht htask]

/-- With no delimiter in the buffer, the flag is looked at and the buffer kept. -/
theorem readerPoll_of_cancel {s : State} (hread : s.reading = false) (hcancel : s.mux.cancel = true)
    (hbuf : Config.muxDelim ∉ s.mux.buf) : s.readerPoll = s.raise .reader .cancelled := by
  rw [State.readerPoll, muxScan_no_delim _ _ _ _ hbuf, List.nil_append, ← hread]
  exact if_pos hcancel

/-- A frame in front of the buffer that passes the filter is delivered, whatever the flag is (43_mux_stream R174 c). -/
theorem readerPoll_of_frame {s : State} {t : Topic} {payload rest : Bytes} (hpass : s.mux.passes (t, payload) = true)
    (hbuf : s.mux.buf = muxFrame t payload ++ rest) : s.readerPoll =
      State.ret .reader (.frame t payload) { s with mux := { s.mux with buf := rest }, reading := false } := by
  have haccept : acceptRaw s.mux.subs s.mux.promisc (cobsEncode (t.bytes ++ payload)) = some (t, payload) :=
    (acceptRaw_cobsEncode _ _ t payload).trans (if_pos hpass)
  have hscan : muxScan s.mux.subs s.mux.promisc [] s.mux.buf = (some (t, payload), rest) := by
    rw [hbuf, muxFrame, List.append_assoc]
    exact muxScan_accepted (zero_notMem_cobsEncode _) haccept rest
  rw [State.readerPoll, hscan]

/-- Settles O32: the event ends the `MUX.READ` that waits; before a `MUX.READ` waits it looks at its buffer, and then at the
flag. -/
theorem cancelEndsTheWaitingRead : Obligations.CancelEndsTheWaitingRead := by
  refine ⟨fun s hread => congrArg _ (cancelEvent_of_reading hread),
    fun s hread => congrArg _ (cancelEvent_of_not_reading hread),
    fun rest s hread htask hcancel hbuf hrx => ?event,
    fun s hread htask hcancel hbuf => ?flag, fun p => rfl,
    fun t payload rest s hread htask hfilter hbuf => ?frame⟩
  case event =>
    rw [exec_muxRead_waits hread hcancel hbuf, settle_read_cancel (s := s.awaitFrame) rfl htask hrx,
      cancelEvent_of_reading rfl, ← hread]
    rfl
  case flag => exact exec_muxRead_of_ended hread (readerPoll_of_cancel hread hcancel hbuf) hread htask
  case frame =>
    rw [exec_muxRead_of_ended hread (readerPoll_of_frame ((s.mux.passes_iff t payload).mpr hfilter) hbuf) rfl htask, ← hread]
    rfl

/-! Refused operands (60_exceptions R220, R221). -/

theorem crcBuild_of_narrow {w : Nat} (P : Nat) (hw : w < 8) : crcBuild w P = .error (.invalidWidth w) := if_pos hw

/-- Settles O2: no table is built, and the error is the only report. -/
theorem crcBuildRefusesNarrowWidth : Obligations.CrcBuildRefusesNarrowWidth := by
  intro w P s hw
  have harm : exec (.crcBuild w P) s = execCrcBuild w P s := rfl
  rw [harm, execCrcBuild, crcBuild_of_narrow P hw]
  rfl

/-- Only four bytes spell a tag (30_encoding R79). -/
theorem topic_ofBytes_eq_none {tag : Bytes} (h : tag.length ≠ 4) : Topic.ofBytes tag = none := by
  match tag, h with
  | [], _ | [_], _ | [_, _], _ | [_, _, _], _ | _ :: _ :: _ :: _ :: _ :: _, _ => rfl
  | [_, _, _, _], h => exact absurd rfl h

/-- Settles O29: the bytes spell no tag, so the set is not written. -/
theorem subscriptionRefusesOtherLengths : Obligations.SubscriptionRefusesOtherLengths := by
  intro tag s hlen
  have hsub : exec (.muxSub tag) s = execMuxSub tag s := rfl
  have hunsub : exec (.muxUnsub tag) s = execMuxUnsub tag s := rfl
  rw [hsub, hunsub, execMuxSub, execMuxUnsub, topic_ofBytes_eq_none hlen]
  exact ⟨rfl, rfl⟩

end Sys2Proof.Machine
end
